-- ==== Sys2Proof/Word.lean ====
section
/-! DEFINITION. The word types of the register window (00_scope.md R2): 32-bit registers, 8-bit bytes. -/

namespace Sys2Proof

/-- A register of the window, and every value read or written through it: 32 bits (R2). -/
abbrev Word := BitVec 32

/-- A data byte: 8 bits (R2). -/
abbrev Byte := BitVec 8

end Sys2Proof
end

