-- ==== Sys2Proof/Machine/Layout.lean ====
section
/-! DEFINITION. The register map of the window (10_state.md R21): names, offsets, access rights, and which bits of each
register are defined (R22 to R35). -/

namespace Sys2Proof.Machine

/-- The eighteen registers of the window, in the order of R21. -/
inductive Reg where
  | con | tar | sar | dataCmd | ssHcnt | ssLcnt | fsHcnt | fsLcnt | intrStat | intrMask | rawIntrStat | rxTl | txTl
  | clrIntr | enable | status | txflr | rxflr
  deriving DecidableEq, Repr

/-- The byte offset of a register from BASE (R21). -/
def Reg.offset : Reg → Nat
  | .con => 0x00
  | .tar => 0x04
  | .sar => 0x08
  | .dataCmd => 0x10
  | .ssHcnt => 0x14
  | .ssLcnt => 0x18
  | .fsHcnt => 0x1C
  | .fsLcnt => 0x20
  | .intrStat => 0x2C
  | .intrMask => 0x30
  | .rawIntrStat => 0x34
  | .rxTl => 0x38
  | .txTl => 0x3C
  | .clrIntr => 0x40
  | .enable => 0x6C
  | .status => 0x70
  | .txflr => 0x74
  | .rxflr => 0x78

/-- Every register, in the order of R21. -/
def Reg.all : List Reg :=
  [.con, .tar, .sar, .dataCmd, .ssHcnt, .ssLcnt, .fsHcnt, .fsLcnt, .intrStat, .intrMask, .rawIntrStat, .rxTl, .txTl,
   .clrIntr, .enable, .status, .txflr, .rxflr]

/-- The register at a byte offset, if there is one: the offset map of R62. -/
def Reg.ofOffset (off : Nat) : Option Reg :=
  Reg.all.find? fun r => r.offset == off

/-- The registers marked RO in R21: a write of one is a fault (R63). -/
def Reg.readOnly : Reg → Bool
  | .intrStat | .rawIntrStat | .clrIntr | .status | .txflr | .rxflr => true
  | .con | .tar | .sar | .dataCmd | .ssHcnt | .ssLcnt | .fsHcnt | .fsLcnt | .intrMask | .rxTl | .txTl | .enable => false

/-- The bits of a register that a write may set: R22 to R26, R28, R30, R32. The others are reserved (R64). A read-only
register has none. -/
def Reg.writeMask : Reg → Word
  | .con => 0x7F#32
  | .tar => 0x13FF#32
  | .sar => 0x3FF#32
  | .dataCmd => 0x1FF#32
  | .ssHcnt | .ssLcnt | .fsHcnt | .fsLcnt => 0xFFFF#32
  | .intrMask => 0x1F#32
  | .rxTl | .txTl => 0xFF#32
  | .enable => 1#32
  | .intrStat | .rawIntrStat | .clrIntr | .status | .txflr | .rxflr => 0#32

/-- A value with a 1 in a reserved bit of the register (R64). -/
def Reg.setsReserved (r : Reg) (v : Word) : Bool :=
  (v &&& ~~~ r.writeMask) != 0#32

/-- R66: if the window is viewed as bytes, the byte at `BASE + off + k` holds bits `8k+7 : 8k` of the register at `off`,
for k = 0..3. -/
def byteOfWord (v : Word) (k : Nat) : Byte :=
  v.extractLsb' (8 * k) 8

end Sys2Proof.Machine
end

