-- ==== Sys2Proof/Syntax.lean ====
section
/-! DEFINITION. The instructions: one constructor per row of spec/opcode_table.json (30_encoding.md R89), in the
table's order: 18 register reads, 12 register writes, 2 tokens, 3 requests. -/

namespace Sys2Proof

/-- One constructor per row of the opcode table. A register write carries its 32-bit value operand (R80); a token its
DAT byte (R81); a request its fields (R82). The address of `execute` is a natural number, because R88 and R183 test it
against 0x3FF and vector V5.3 issues 0x400 (log entry 12). -/
inductive Instr where
  | rdCon
  | rdTar
  | rdSar
  | rdDataCmd
  | rdSsHcnt
  | rdSsLcnt
  | rdFsHcnt
  | rdFsLcnt
  | rdIntrStat
  | rdIntrMask
  | rdRawIntrStat
  | rdRxTl
  | rdTxTl
  | rdClrIntr
  | rdEnable
  | rdStatus
  | rdTxflr
  | rdRxflr
  | wrCon (v : Word)
  | wrTar (v : Word)
  | wrSar (v : Word)
  | wrDataCmd (v : Word)
  | wrSsHcnt (v : Word)
  | wrSsLcnt (v : Word)
  | wrFsHcnt (v : Word)
  | wrFsLcnt (v : Word)
  | wrIntrMask (v : Word)
  | wrRxTl (v : Word)
  | wrTxTl (v : Word)
  | wrEnable (v : Word)
  | wtok (dat : Byte)
  | rtok (dat : Byte)
  | init (f : Nat)
  | setSpeed (f : Nat)
  | execute (addr : Nat) (tenBit : Bool) (wdata : List Byte) (rlen : Nat)
  deriving DecidableEq, Repr

end Sys2Proof
end

