-- ==== Sys2Proof/WellFormed.lean ====
section
/-! DEFINITION. Which instructions have a legal encoding: a register write sets no reserved bit (20_memory.md R64,
30_encoding.md R90), and the address of EXECUTE fits its 10-bit field (30_encoding.md R82). An ill-formed instruction
still has a meaning: the fault or the error result the spec gives it. -/

namespace Sys2Proof

open Machine

/-- The checks, one per constructor. -/
def WellFormed : Instr → Bool
  | .rdCon | .rdTar | .rdSar | .rdDataCmd | .rdSsHcnt | .rdSsLcnt | .rdFsHcnt | .rdFsLcnt | .rdIntrStat | .rdIntrMask
  | .rdRawIntrStat | .rdRxTl | .rdTxTl | .rdClrIntr | .rdEnable | .rdStatus | .rdTxflr | .rdRxflr => true
  | .wrCon v => !Reg.setsReserved .con v
  | .wrTar v => !Reg.setsReserved .tar v
  | .wrSar v => !Reg.setsReserved .sar v
  | .wrDataCmd v => !Reg.setsReserved .dataCmd v
  | .wrSsHcnt v => !Reg.setsReserved .ssHcnt v
  | .wrSsLcnt v => !Reg.setsReserved .ssLcnt v
  | .wrFsHcnt v => !Reg.setsReserved .fsHcnt v
  | .wrFsLcnt v => !Reg.setsReserved .fsLcnt v
  | .wrIntrMask v => !Reg.setsReserved .intrMask v
  | .wrRxTl v => !Reg.setsReserved .rxTl v
  | .wrTxTl v => !Reg.setsReserved .txTl v
  | .wrEnable v => !Reg.setsReserved .enable v
  | .wtok _ => true
  | .rtok _ => true
  | .init _ => true
  | .setSpeed _ => true
  | .execute addr _ _ _ => decide (addr ≤ 0x3FF)

end Sys2Proof
end

