-- ==== Sys2Proof/Decode.lean ====
section
/-! DEFINITION. Decoding and encoding of the three formats REG, TOKEN and REQ (30_encoding.md R80 to R83, R89, R90),
each total and rejecting by name, and `decodeTableWord` for the opcode table's rows. The formats are what the spec
says they are: a 13-bit access word with a 32-bit operand, a 32-bit value, and a record with a 2-bit kind. They are
packings, not byte patterns on any bus (30_encoding.md introduction; log entry 13). -/

namespace Sys2Proof

open Machine

/-- The record of the REQ format (R82): a 2-bit kind and the kind-specific fields. A kind reads only its own fields. -/
structure ReqRecord where
  kind : BitVec 2
  fTarget : Nat
  addr : Nat
  tenBit : Bool
  wdata : List Byte
  rlen : Nat
  deriving DecidableEq, Repr

/-- One encoded instruction in one of the three formats. -/
inductive Code where
  /-- REG (R80): bit 12 is WE, bits 11:0 are OFF; `v` is the operand of a write. -/
  | reg (word : BitVec 13) (v : Word)
  /-- TOKEN (R81): the 32-bit value of a DATA_CMD write. -/
  | token (v : Word)
  /-- REQ (R82). -/
  | req (r : ReqRecord)
  deriving DecidableEq, Repr

/-- Why an encoding is illegal (R90). -/
inductive DecodeError where
  /-- A REG word whose OFF is not one of the eighteen offsets (R61, R62). -/
  | badAccess
  /-- A REG write to a read-only register (R63). -/
  | roWrite
  /-- A TOKEN with any of bits 31:9 set (R64). -/
  | reservedBits
  /-- A REQ of kind 3: refused, it cannot be issued. -/
  | reservedKind
  deriving DecidableEq, Repr

/-- The read instruction of a register (R89, REG reads). -/
def Instr.ofRead : Reg → Instr
  | .con => .rdCon
  | .tar => .rdTar
  | .sar => .rdSar
  | .dataCmd => .rdDataCmd
  | .ssHcnt => .rdSsHcnt
  | .ssLcnt => .rdSsLcnt
  | .fsHcnt => .rdFsHcnt
  | .fsLcnt => .rdFsLcnt
  | .intrStat => .rdIntrStat
  | .intrMask => .rdIntrMask
  | .rawIntrStat => .rdRawIntrStat
  | .rxTl => .rdRxTl
  | .txTl => .rdTxTl
  | .clrIntr => .rdClrIntr
  | .enable => .rdEnable
  | .status => .rdStatus
  | .txflr => .rdTxflr
  | .rxflr => .rdRxflr

/-- The write instruction of a register (R89, REG writes), or the name of the error for a read-only one (R90). -/
def Instr.ofWrite (r : Reg) (v : Word) : Except DecodeError Instr :=
  match r with
  | .con => .ok (.wrCon v)
  | .tar => .ok (.wrTar v)
  | .sar => .ok (.wrSar v)
  | .dataCmd => .ok (.wrDataCmd v)
  | .ssHcnt => .ok (.wrSsHcnt v)
  | .ssLcnt => .ok (.wrSsLcnt v)
  | .fsHcnt => .ok (.wrFsHcnt v)
  | .fsLcnt => .ok (.wrFsLcnt v)
  | .intrMask => .ok (.wrIntrMask v)
  | .rxTl => .ok (.wrRxTl v)
  | .txTl => .ok (.wrTxTl v)
  | .enable => .ok (.wrEnable v)
  | .intrStat => .error .roWrite
  | .rawIntrStat => .error .roWrite
  | .clrIntr => .error .roWrite
  | .status => .error .roWrite
  | .txflr => .error .roWrite
  | .rxflr => .error .roWrite

/-- A REG word with its operand (R80, R89, R90). The operand's reserved bits are the access's fifth check (R68), made
when it runs. -/
def decodeReg (word : BitVec 13) (v : Word) : Except DecodeError Instr :=
  match Reg.ofOffset (word.extractLsb' 0 12).toNat with
  | none => .error .badAccess
  | some r => if word.getLsbD 12 then Instr.ofWrite r v else .ok (Instr.ofRead r)

/-- A TOKEN value (R81, R83, R89, R90). -/
def decodeToken (v : Word) : Except DecodeError Instr :=
  if v.extractLsb' 9 23 != 0#23 then .error .reservedBits
  else if v.getLsbD 8 then .ok (.rtok (v.extractLsb' 0 8))
  else .ok (.wtok (v.extractLsb' 0 8))

/-- A REQ record (R82, R89, R90). -/
def decodeReq (r : ReqRecord) : Except DecodeError Instr :=
  if r.kind = 0#2 then .ok (.init r.fTarget)
  else if r.kind = 1#2 then .ok (.setSpeed r.fTarget)
  else if r.kind = 2#2 then .ok (.execute r.addr r.tenBit r.wdata r.rlen)
  else .error .reservedKind

/-- The decoder: total on every code of every format. -/
def decode : Code → Except DecodeError Instr
  | .reg word v => decodeReg word v
  | .token v => decodeToken v
  | .req r => decodeReq r

/-- The REG word of an access: `WE` at bit 12 and the offset below it (R80). -/
def regWord (we : Bool) (off : Nat) : BitVec 13 :=
  BitVec.ofBool we ++ BitVec.ofNat 12 off

/-- The TOKEN value of a token: `CMD` at bit 8, `DAT` at 7:0, bits 31:9 zero (R81, R83). -/
def tokenWord (cmd : Bool) (dat : Byte) : Word :=
  0#23 ++ (BitVec.ofBool cmd ++ dat)

/-- The REQ record of a request whose other fields are empty (R82). -/
def reqRecord (kind : BitVec 2) (f : Nat) : ReqRecord :=
  { kind := kind, fTarget := f, addr := 0, tenBit := false, wdata := [], rlen := 0 }

/-- The encoder (R80 to R83, R89). A read carries no operand: its operand is 0. -/
def encode : Instr → Code
  | .rdCon => .reg 0x0000#13 0
  | .rdTar => .reg 0x0004#13 0
  | .rdSar => .reg 0x0008#13 0
  | .rdDataCmd => .reg 0x0010#13 0
  | .rdSsHcnt => .reg 0x0014#13 0
  | .rdSsLcnt => .reg 0x0018#13 0
  | .rdFsHcnt => .reg 0x001C#13 0
  | .rdFsLcnt => .reg 0x0020#13 0
  | .rdIntrStat => .reg 0x002C#13 0
  | .rdIntrMask => .reg 0x0030#13 0
  | .rdRawIntrStat => .reg 0x0034#13 0
  | .rdRxTl => .reg 0x0038#13 0
  | .rdTxTl => .reg 0x003C#13 0
  | .rdClrIntr => .reg 0x0040#13 0
  | .rdEnable => .reg 0x006C#13 0
  | .rdStatus => .reg 0x0070#13 0
  | .rdTxflr => .reg 0x0074#13 0
  | .rdRxflr => .reg 0x0078#13 0
  | .wrCon v => .reg 0x1000#13 v
  | .wrTar v => .reg 0x1004#13 v
  | .wrSar v => .reg 0x1008#13 v
  | .wrDataCmd v => .reg 0x1010#13 v
  | .wrSsHcnt v => .reg 0x1014#13 v
  | .wrSsLcnt v => .reg 0x1018#13 v
  | .wrFsHcnt v => .reg 0x101C#13 v
  | .wrFsLcnt v => .reg 0x1020#13 v
  | .wrIntrMask v => .reg 0x1030#13 v
  | .wrRxTl v => .reg 0x1038#13 v
  | .wrTxTl v => .reg 0x103C#13 v
  | .wrEnable v => .reg 0x106C#13 v
  | .wtok dat => .token (tokenWord false dat)
  | .rtok dat => .token (tokenWord true dat)
  | .init f => .req (reqRecord 0#2 f)
  | .setSpeed f => .req (reqRecord 1#2 f)
  | .execute addr tenBit wdata rlen =>
    .req { kind := 2#2, fTarget := 0, addr := addr, tenBit := tenBit, wdata := wdata, rlen := rlen }

/-- The code that a row of the opcode table gives with its operands zero. The table gives a REQ row 2 bits, a REG row 13
and a TOKEN row 32, so their lengths in whole bytes, 8, 16 and 32 bits, tell the formats apart. -/
def tableCode (nbits w : Nat) : Code :=
  if nbits ≤ 8 then .req (reqRecord (BitVec.ofNat 2 w) 0)
  else if nbits ≤ 16 then .reg (BitVec.ofNat 13 w) 0
  else .token (BitVec.ofNat 32 w)

/-- The instruction the decoder reads from an instruction whose bits are `w`, numbered as the opcode table numbers
them; every operand above `nbits` is zero. -/
def decodeTableWord (nbits w : Nat) : Option Instr :=
  match decode (tableCode nbits w) with
  | .ok i => some i
  | .error _ => none

end Sys2Proof
end

