-- ==== Sys2Proof/Machine/Types.lean ====
section
/-! DEFINITION. The data the state is made of: tokens, requests, phases, results, events, the configuration record,
the fault reasons (10_state.md sections 2 to 8, 60_exceptions.md R241, R242, R245), and the moves by which the
interleaving of the agents is written down (00_scope.md R4, 20_memory.md R70). -/

namespace Sys2Proof.Machine

/-- A requester's number, 0 .. NUM_REQUESTERS - 1 (R4). -/
abbrev Requester := Nat

/-- A TX FIFO entry (R36, R160): `cmd` true is a read token, false a write token. -/
structure Token where
  cmd : Bool
  dat : Byte
  deriving DecidableEq, Repr

/-- A request (R86). -/
inductive Request where
  | init (f : Nat)
  | setSpeed (f : Nat)
  | execute (addr : Nat) (tenBit : Bool) (wdata : List Byte) (rlen : Nat)
  deriving DecidableEq, Repr

/-- The phase register's values (R41). -/
inductive Phase where
  | idle
  | validate
  | busWait
  | addressSet
  | wrPoll
  | wrPush
  | rdPollTx
  | rdPush
  | rdPollRx
  | rdPop
  | cfgDisable
  | cfgSsHcnt
  | cfgSsLcnt
  | cfgFsHcnt
  | cfgFsLcnt
  | cfgCon
  | cfgMask
  | cfgEnable
  | done
  | timeout
  | abort
  deriving DecidableEq, Repr

/-- The kinds of wait (R242). -/
inductive Wait where
  | bus | tx | rx
  deriving DecidableEq, Repr

/-- The error codes of R241 (Ok is not an error). The last three are never produced by this block. -/
inductive ErrCode where
  | timeout | invalidArgument | notInitialized | alreadyInitialized | notFound | mappingFailed | ioFailure
  deriving DecidableEq, Repr

/-- The info of a Timeout (R242): which wait ran out, in which phase, at which byte, and the bytes read before. -/
structure TimeoutInfo where
  wait : Wait
  phase : Phase
  idx : Nat
  bytesRead : List Byte
  deriving DecidableEq, Repr

/-- A Result (R44, R87): the info is `none` for every error but Timeout (R242). -/
inductive Result where
  | ok (bytes : List Byte)
  | err (code : ErrCode) (info : Option TimeoutInfo)
  deriving DecidableEq, Repr

/-- The two speed modes (R3, R143). -/
inductive Speed where
  | standard | fast
  deriving DecidableEq, Repr

/-- The ControllerConfig record (R49). -/
structure BusConfig where
  fTarget : Nat
  speed : Speed
  ssH : BitVec 16
  ssL : BitVec 16
  fsH : BitVec 16
  fsL : BitVec 16
  intrMask : BitVec 5
  rxTl : Option Byte
  txTl : Option Byte
  deriving DecidableEq, Repr

/-- The reasons a register access is a fault (R245), in the order of their codes. -/
inductive FaultReason where
  | unmapped
  | badAccess
  | roWrite
  | reservedBits
  | conWhileEnabled
  | badSpeed
  | tarWhileActive
  | sarWhileEnabled
  | dataCmdWhileDisabled
  | timingWhileEnabled
  | disableWhileActive
  deriving DecidableEq, Repr

/-- The events of the history (R52). -/
inductive Event where
  | regRead (off : Nat) (v : Word)
  | regWrite (off : Nat) (v : Word)
  | grant (r : Requester) (q : Request)
  | release (r : Requester) (res : Result)
  | wStart (tar : BitVec 10)
  | wTx (tar : BitVec 10) (b : Byte)
  | wRx (tar : BitVec 10) (b : Byte)
  | wStop
  | wAbort
  | flush
  deriving DecidableEq, Repr

/-- A requester's state (R48). -/
inductive RqState where
  | quiet
  | waiting (q : Request)
  | active (q : Request)
  | returned (res : Result)
  deriving DecidableEq, Repr

/-- A register-window access in its most general form: any width in bits, any byte offset from BASE (R61, R62). Only a
32-bit access at an offset inside the window has a REG word (R80). -/
structure BusAccess where
  we : Bool
  width : Nat
  off : Nat
  value : Word
  deriving DecidableEq, Repr

/-- A call of a session helper (R230 to R233). -/
inductive Helper where
  | readRegister (reg : Byte)
  | writeRegister (reg : Byte) (value : Byte)
  | readBlock (reg : Byte) (n : Nat)
  | writeBlock (reg : Byte) (data : List Byte)
  deriving DecidableEq, Repr

/-- One atomic step of one agent (R4): which agent moves, and what a requester or another driver of the window does in
it. The order of the moves is the interleaving, which no rule fixes (R70); it is plain data of the state (log entry 4). -/
inductive Move where
  /-- Another driver's access of the register window (log entry 5). -/
  | access (a : BusAccess)
  /-- A step of the engine (R180). -/
  | engine
  /-- W_TAKE (R164). -/
  | wTake
  /-- W_SEND or W_RECV: the wire agent completes the token in flight (R165, R166). -/
  | wComplete
  /-- W_END (R167). -/
  | wEnd
  /-- W_ABORT (R169). -/
  | wAbort
  /-- GRANT to a requester (R221). -/
  | grant (r : Requester)
  /-- RELEASE (R222). -/
  | release
  /-- ISSUE of an encoded request by a requester (R224, R82). -/
  | issue (r : Requester) (rec : ReqRecord)
  /-- COLLECT (R225). -/
  | collect (r : Requester)
  /-- A session helper called by a requester, at the session's 7-bit address (R230 to R235). -/
  | helper (r : Requester) (addr : BitVec 7) (h : Helper)
  deriving DecidableEq, Repr, Inhabited

/-- The grant orders of R226. -/
inductive LockOrder where
  | any | fifo
  deriving DecidableEq, Repr

/-- The COUNT_FN parameter (R1, R141): the default, or another function of the frequency that meets R142. -/
inductive CountRule where
  | byDefault
  | other (k : Nat)
  deriving DecidableEq, Repr

/-- The peripheral oracle as a parameter (R168): the `k`-th of the oracles of which nothing is known, or the fake
peripheral of 95_test_vectors.md section 0.3 at an address, with the bytes its register file first holds (a byte past
the end of the list is 0). -/
inductive Oracle where
  | free (k : Nat)
  | fake (addr : BitVec 10) (contents : List Byte)
  deriving DecidableEq, Repr

/-- The parameters of one controller instance (R1, R54): fixed for its lifetime, so every step leaves them as they are.
WINDOW_SIZE is fixed by R1 (`Config.windowSize`), NUM_CONTROLLERS is the platform's. `inst` is the model's own: the
number of the instance, which tells its draws and its free moves from another instance's (log entries 20, 25). -/
structure Params where
  /-- The model's own: which instance this is (log entry 20). -/
  inst : Nat
  /-- TX_DEPTH. -/
  txDepth : Nat
  /-- RX_DEPTH. -/
  rxDepth : Nat
  /-- N_BUS. -/
  nBus : Nat
  /-- N_FIFO. -/
  nFifo : Nat
  /-- BACKOFF, a duration; no step reads it (R181). -/
  backoff : Nat
  /-- F_IN, in Hz. -/
  fIn : Nat
  /-- COUNT_FN. -/
  counts : CountRule
  /-- BASE; accesses are given by their offset from it, so no step reads it (R69). -/
  base : Nat
  /-- IRQ_LINE; no step reads it. -/
  irqLine : Nat
  /-- NUM_REQUESTERS. -/
  numRequesters : Nat
  /-- MAX_LEN; `none` is unbounded (R88). -/
  maxLen : Option Nat
  /-- LOCK_ORDER (R226). -/
  lockOrder : LockOrder
  /-- W_BOUND, a premise on runs only (R170); `none` is absent. -/
  wBound : Option Nat
  /-- W_MAY_ABORT (R169). -/
  mayAbort : Bool
  /-- The peripheral oracle (R168, R54). -/
  oracle : Oracle
  deriving DecidableEq, Repr

/-- What a requester's call returns (R225): the result of its request as it is, or the byte of `read_register` (R230). -/
inductive Returned where
  | result (res : Result)
  | byte (b : Byte)
  deriving DecidableEq, Repr

/-- The number of an error code (R241); Ok is 0. -/
def ErrCode.code : ErrCode → Nat
  | .timeout => 1
  | .invalidArgument => 2
  | .notInitialized => 3
  | .alreadyInitialized => 4
  | .notFound => 5
  | .mappingFailed => 6
  | .ioFailure => 7

/-- The number of a result (R241). -/
def Result.code : Result → Nat
  | .ok _ => 0
  | .err c _ => c.code

/-- The number of a fault reason (R245). -/
def FaultReason.code : FaultReason → Nat
  | .unmapped => 1
  | .badAccess => 2
  | .roWrite => 3
  | .reservedBits => 4
  | .conWhileEnabled => 5
  | .badSpeed => 6
  | .tarWhileActive => 7
  | .sarWhileEnabled => 8
  | .dataCmdWhileDisabled => 9
  | .timingWhileEnabled => 10
  | .disableWhileActive => 11

/-- The terminal phases (R41, R180). -/
def Phase.terminal : Phase → Bool
  | .done | .timeout | .abort => true
  | .idle | .validate | .busWait | .addressSet | .wrPoll | .wrPush | .rdPollTx | .rdPush | .rdPollRx | .rdPop
  | .cfgDisable | .cfgSsHcnt | .cfgSsLcnt | .cfgFsHcnt | .cfgFsLcnt | .cfgCon | .cfgMask | .cfgEnable => false

end Sys2Proof.Machine
end

