-- ==== Sys2Proof/Config.lean ====
section
/-! DEFINITION. What each controller instance fixes (00_scope.md R1, 10_state.md R54), and the free values. A parameter
the spec leaves OPEN with no default, and a value it leaves free, are constants with no body, one for each instance
number: nothing can be proved of their values, nor that two instances share them or do not (R54 and R253 leave that open,
log entry 20). Where a parameter has a least value, the constant is its distance from it. A step reads the parameters in
the state (`State.params`), so what is proved of every state holds for every value of them. -/

namespace Sys2Proof

open Machine

/-- TX_DEPTH less one: 1 ≤ TX_DEPTH ≤ 0xFFFF (R1, R34, log entry 9). -/
opaque Config.txDepthLessOne : Nat → Fin 65535

/-- RX_DEPTH less one: 1 ≤ RX_DEPTH ≤ 0xFFFF (R1, R35, log entry 9). -/
opaque Config.rxDepthLessOne : Nat → Fin 65535

/-- N_BUS (R1, R181): failed bus-free reads allowed. -/
opaque Config.nBus : Nat → Nat

/-- N_FIFO (R1, R181): failed FIFO reads allowed in one wait. -/
opaque Config.nFifo : Nat → Nat

/-- F_IN less one: F_IN > 0 Hz (R1). -/
opaque Config.fInLessOne : Nat → Nat

/-- NUM_REQUESTERS less one: at least 1 (R1). -/
opaque Config.numRequestersLessOne : Nat → Nat

/-- NUM_CONTROLLERS less one: at least 1 (R1). -/
opaque Config.numControllersLessOne : Nat

/-- BASE (R1, R69): the window's byte address. -/
opaque Config.base : Nat → Nat

/-- IRQ_LINE (R1). -/
opaque Config.irqLine : Nat → Nat

/-- BACKOFF (R1, R181). -/
opaque Config.backoff : Nat → Nat

/-- The n-th fresh draw of an instance (R7 `draw_N()`): every undefined bit of its n-th register read comes from it
(log entry 2). -/
opaque Config.draw : Nat → Nat → Word

/-- The k-th peripheral oracle `Periph(hist, addr, ten_bit)` of which nothing is known (R168, log entry 3). -/
opaque Config.periph : Nat → List Event → BitVec 10 → Bool → Byte

/-- The k-th function of a frequency that COUNT_FN may be (R141, log entry 10). -/
opaque Config.otherCounts : Nat → Nat → Nat × Nat

/-- The n-th move the environment of an instance chooses when the state lists none: which agent steps next is left open
(R4, R70, R226, log entry 4). -/
opaque Config.freeMove : Nat → Nat → Move

/-- NUM_CONTROLLERS (R1). -/
def Config.numControllers : Nat := Config.numControllersLessOne + 1

/-- WINDOW_SIZE (R1, R60). -/
def Config.windowSize : Nat := 4096

/-- The parameters of the instance `k`: those that R1 gives a value or a default (COUNT_FN, MAX_LEN, LOCK_ORDER, W_BOUND,
W_MAY_ABORT) at it, the others unknown, the oracle one of which nothing is known (log entries 9 to 11). -/
def Config.params (k : Nat) : Params where
  inst := k
  txDepth := (Config.txDepthLessOne k).val + 1
  rxDepth := (Config.rxDepthLessOne k).val + 1
  nBus := Config.nBus k
  nFifo := Config.nFifo k
  backoff := Config.backoff k
  fIn := Config.fInLessOne k + 1
  counts := .byDefault
  base := Config.base k
  irqLine := Config.irqLine k
  numRequesters := Config.numRequestersLessOne k + 1
  maxLen := none
  lockOrder := .any
  wBound := none
  mayAbort := true
  oracle := .free k

end Sys2Proof
end

