-- ==== Sys2Proof/Machine/State.lean ====
section
/-! DEFINITION. The state of one controller instance as plain data (10_state.md), the outcomes that stop it, and the
state after reset (10_state.md R53, 70_reset_and_hazards.md R260). -/

namespace Sys2Proof.Machine

/-- Why a step can stop the machine. -/
inductive Fault where
  /-- Raised by every step, and by every instruction, of a controller whose fault set is not empty: no agent of it has a
  further step (10_state.md R50, 60_exceptions.md R245, 93_implementation_defined.md section 4). Safe: the machine stops
  where the spec says it stops. -/
  | controllerFaulted
  deriving DecidableEq, Repr

/-- Why a step can have no meaning. -/
inductive Refusal where
  /-- Raised by an arm of `exec` whose instruction has no meaning yet; no arm does. Safe. -/
  | notModelled (mnemonic : String)
  /-- Raised by an ISSUE of a request of kind 3: "a requester that would issue it has no step" (30_encoding.md R90).
  Safe. -/
  | reservedRequestKind
  deriving DecidableEq, Repr

/-- The stored values of the storage registers of the window (R21 to R32). A reserved bit is stored as 0. -/
structure Regs where
  /-- CON (R22). -/
  con : Word
  /-- TAR (R23). -/
  tar : Word
  /-- SAR (R24). -/
  sar : Word
  /-- SS_HCNT (R26). -/
  ssHcnt : Word
  /-- SS_LCNT (R26). -/
  ssLcnt : Word
  /-- FS_HCNT (R26). -/
  fsHcnt : Word
  /-- FS_LCNT (R26). -/
  fsLcnt : Word
  /-- INTR_MASK (R28). -/
  intrMask : Word
  /-- RX_TL (R30). -/
  rxTl : Word
  /-- TX_TL (R30). -/
  txTl : Word
  /-- ENABLE (R32). -/
  enable : Word
  deriving DecidableEq, Repr

/-- The wire agent's state (R38). -/
structure Wire where
  inflight : Option Token
  busBusy : Bool
  deriving DecidableEq, Repr

/-- The sticky interrupt bits (R39). -/
structure Sticky where
  rxUnder : Bool
  rxOver : Bool
  txOver : Bool
  deriving DecidableEq, Repr

/-- The whole state of one controller instance. The last seven fields are the model's own (log entries 2, 4,
16, 17, 24). -/
structure State where
  /-- The instance's parameters (R1, R54): not state, but carried here because a step is a function of the state alone;
  no step changes them (log entry 25). -/
  params : Params
  /-- The storage registers (R21). -/
  regs : Regs
  /-- The TX FIFO, oldest first (R36). -/
  txFifo : List Token
  /-- The RX FIFO, oldest first (R37). -/
  rxFifo : List Byte
  /-- The wire agent (R38). -/
  wire : Wire
  /-- The sticky interrupt bits (R39). -/
  sticky : Sticky
  /-- The engine's phase, the analogue of a program counter (R41). -/
  phase : Phase
  /-- The request being served (R40, R46). -/
  req : Option Request
  /-- Who issued it (R40, R46). -/
  owner : Option Requester
  /-- The index of the current byte (R42). -/
  idx : Nat
  /-- Failed polls of the current loop (R42). -/
  cnt : Nat
  /-- Bytes read so far (R43). -/
  rbuf : List Byte
  /-- The outcome waiting to be returned (R44). -/
  result : Option Result
  /-- Whether INIT has completed (R45). -/
  initialized : Bool
  /-- The current ControllerConfig (R49). -/
  cfg : Option BusConfig
  /-- The config being programmed (R40, R154). -/
  ncfg : Option BusConfig
  /-- The bus lock's owner (R47). -/
  lockOwner : Option Requester
  /-- The requesters' states, by number (R48). -/
  rq : List RqState
  /-- The fault bits set, without repeats (R50). -/
  faults : List FaultReason
  /-- The event history, oldest first (R52). -/
  hist : List Event
  /-- Whether the window is mapped (R65, R262). -/
  mapped : Bool
  /-- The model's own: the value the last register read returned to its issuer (R80). -/
  rdata : Word
  /-- The model's own: what the last returning call returned, and to whom (R225, R230). -/
  delivered : Option (Requester × Returned)
  /-- The model's own: by which session helper each requester's outstanding request was issued, by number; `none` for a
  request issued as it is (R224, R230 to R233). -/
  calls : List (Option Helper)
  /-- The model's own: the waiting requesters, oldest ISSUE first (R226). -/
  waitQ : List Requester
  /-- The model's own: the moves the environment has chosen, next first. -/
  sched : List Move
  /-- The model's own: the index of the next free move. -/
  moveCount : Nat
  /-- The model's own: the index of the next free draw. -/
  drawCount : Nat
  deriving DecidableEq, Repr

/-- The state after reset of an instance with the parameters `p` when the unspecified register fields hold the draws `d`
(R53, R260): every other field has the value of R53's table, and the window is mapped (R262). -/
def State.resetWith (p : Params) (d : Regs) : State where
  params := p
  regs := d
  txFifo := []
  rxFifo := []
  wire := { inflight := none, busBusy := false }
  sticky := { rxUnder := false, rxOver := false, txOver := false }
  phase := .idle
  req := none
  owner := none
  idx := 0
  cnt := 0
  rbuf := []
  result := none
  initialized := false
  cfg := none
  ncfg := none
  lockOwner := none
  rq := List.replicate p.numRequesters .quiet
  faults := []
  hist := []
  mapped := true
  rdata := 0
  delivered := none
  calls := List.replicate p.numRequesters none
  waitQ := []
  sched := []
  moveCount := 0
  drawCount := 0

/-- The register fields after reset that this model takes: zero, where the spec says one unspecified draw
(DESIGN CHOICE, unsafe, log entry 1). -/
def Regs.zero : Regs where
  con := 0
  tar := 0
  sar := 0
  ssHcnt := 0
  ssLcnt := 0
  fsHcnt := 0
  fsLcnt := 0
  intrMask := 0
  rxTl := 0
  txTl := 0
  enable := 0

/-- The machine right after reset: instance 0. -/
def State.reset : State :=
  State.resetWith (Config.params 0) Regs.zero

end Sys2Proof.Machine
end

