-- ==== Sys2Proof/Machine/Flags.lean ====
section
/-! DEFINITION. Everything the state's status and interrupt bits are computed from: the derived status values
(10_state.md R51), the raw and masked interrupt bits (R27, R29), the interrupt output (60_exceptions.md R247), the
wire agent's enable and target (42_fifo_interface.md). -/

namespace Sys2Proof.Machine

/-- A one-bit value at bit `i` of a word. -/
def bitAt (i : Nat) (b : Bool) : Word :=
  BitVec.setWidth 32 (BitVec.ofBool b) <<< i

/-- The draw the next register read takes its undefined bits from (R7 `draw_N()`, log entry 2). -/
def State.draw (s : State) : Word :=
  Config.draw s.params.inst s.drawCount

/-- ENABLE[0] = 1 (R32). -/
def State.enabled (s : State) : Bool :=
  s.regs.enable.getLsbD 0

/-- CON[0], MASTER_MODE (R22). -/
def State.masterMode (s : State) : Bool :=
  s.regs.con.getLsbD 0

/-- ACTIVITY (R51): a token queued or in flight, or the bus not yet released. -/
def State.activity (s : State) : Bool :=
  !s.txFifo.isEmpty || s.wire.inflight.isSome || s.wire.busBusy

/-- TFNF (R51). -/
def State.tfnf (s : State) : Bool :=
  decide (s.txFifo.length < s.params.txDepth)

/-- RFNE (R51). -/
def State.rfne (s : State) : Bool :=
  !s.rxFifo.isEmpty

/-- The defined bits of STATUS, 0, 1 and 3 (R33). -/
def State.statusBits (s : State) : Word :=
  bitAt 0 s.activity ||| bitAt 1 s.tfnf ||| bitAt 3 s.rfne

/-- RX_FULL (R29): the RX level is above the threshold. -/
def State.rxFull (s : State) : Bool :=
  decide (s.rxFifo.length ≥ (s.regs.rxTl.extractLsb' 0 8).toNat + 1)

/-- TX_EMPTY (R29): the TX level is at or below the threshold. -/
def State.txEmpty (s : State) : Bool :=
  decide (s.txFifo.length ≤ (s.regs.txTl.extractLsb' 0 8).toNat)

/-- RAW_INTR_STAT bits 4:0 (R29, R116 `raw_bits`). -/
def State.rawBits (s : State) : Word :=
  bitAt 0 s.sticky.rxUnder ||| bitAt 1 s.sticky.rxOver ||| bitAt 2 s.rxFull ||| bitAt 3 s.sticky.txOver |||
    bitAt 4 s.txEmpty

/-- INTR_STAT bits 4:0 (R27, R246): the pending interrupts. -/
def State.intrStatBits (s : State) : Word :=
  s.rawBits &&& (s.regs.intrMask &&& 0x1F#32)

/-- The interrupt output `irq` (R247): the OR of INTR_STAT bits 4:0; nothing reads it. -/
def State.irq (s : State) : Bool :=
  s.intrStatBits != 0#32

/-- The wire agent is enabled (R163). -/
def State.wireEnabled (s : State) : Bool :=
  s.faults.isEmpty && s.enabled && s.masterMode

/-- TEN_BIT, TAR bit 12 (R23). -/
def State.tenBit (s : State) : Bool :=
  s.regs.tar.getLsbD 12

/-- `target()` (42_fifo_interface.md introduction): TAR bits 9:0 in 10-bit mode, else bits 6:0 (log entry 22). -/
def State.target (s : State) : BitVec 10 :=
  if s.tenBit then s.regs.tar.extractLsb' 0 10 else BitVec.setWidth 10 (s.regs.tar.extractLsb' 0 7)

end Sys2Proof.Machine
end

