-- ==== Sys2Proof/Machine/Operands.lean ====
section
/-! DEFINITION. Operand assembly and decoding (30_encoding.md section 2): tokens, the TAR value, the CON value, STATUS
bits, requests; and the validity of an EXECUTE request (R88). -/

namespace Sys2Proof.Machine

/-- The token a DATA_CMD value stands for: `cmd = v[8]`, `dat = v[7:0]` (R83, R160). -/
def tokenOf (v : Word) : Token :=
  { cmd := v.getLsbD 8, dat := v.extractLsb' 0 8 }

/-- The code of a token, as the wire agent reads it (R81, R83). -/
def Token.code (t : Token) : Code :=
  .token (tokenWord t.cmd t.dat)

/-- The DATA_CMD value of a write token for a byte, `zext_32(b)` (R83). -/
def writeTokenValue (b : Byte) : Word :=
  BitVec.setWidth 32 b

/-- The DATA_CMD value of a read token (R83). -/
def readTokenValue : Word :=
  0x100#32

/-- The byte of a DATA_CMD read (R85). -/
def receivedByte (v : Word) : Byte :=
  v.extractLsb' 0 8

/-- `tar_value(addr, ten_bit)`: the address in bits 9:0 and TEN_BIT in bit 12 (R84). -/
def tarValue (addr : Nat) (tenBit : Bool) : Word :=
  0#19 ++ (BitVec.ofBool tenBit ++ (0#2 ++ BitVec.ofNat 10 addr))

/-- The number of a speed mode, the SPEED field of CON (R22, R143). -/
def Speed.code : Speed → Word
  | .standard => 1#32
  | .fast => 2#32

/-- `con_value(s) = 0x61 OR (s << 1)` (R143). -/
def conValue (sp : Speed) : Word :=
  0x61#32 ||| (sp.code <<< 1)

/-- A clock count as a register value, `zext_32` (R148 to R151). -/
def countValue (c : BitVec 16) : Word :=
  BitVec.setWidth 32 c

/-- STATUS bit 0, ACTIVITY, of a value read (R85). -/
def readsActive (v : Word) : Bool :=
  v.getLsbD 0

/-- STATUS bit 1, TFNF, of a value read (R85). -/
def readsTxRoom (v : Word) : Bool :=
  v.getLsbD 1

/-- STATUS bit 3, RFNE, of a value read (R85). -/
def readsRxByte (v : Word) : Bool :=
  v.getLsbD 3

/-- A length is within MAX_LEN, where there is one (R88). -/
def withinMax (maxLen : Option Nat) (n : Nat) : Bool :=
  match maxLen with
  | none => true
  | some m => decide (n ≤ m)

/-- The validity of EXECUTE's fields (R88). -/
def executeValid (maxLen : Option Nat) (addr : Nat) (tenBit : Bool) (wdata : List Byte) (rlen : Nat) : Bool :=
  decide (wdata.length + rlen ≥ 1) && decide (addr ≤ (if tenBit then 0x3FF else 0x7F)) &&
    withinMax maxLen wdata.length && withinMax maxLen rlen

/-- The record of a request, as the engine reads it (R82, R86). -/
def Request.record : Request → ReqRecord
  | .init f => reqRecord 0#2 f
  | .setSpeed f => reqRecord 1#2 f
  | .execute addr tenBit wdata rlen =>
    { kind := 2#2, fTarget := 0, addr := addr, tenBit := tenBit, wdata := wdata, rlen := rlen }

/-- The request an encoded record stands for (R82, R90); kind 3 has none. -/
def requestOf (rec : ReqRecord) : Option Request :=
  match decode (.req rec) with
  | .ok (.init f) => some (.init f)
  | .ok (.setSpeed f) => some (.setSpeed f)
  | .ok (.execute addr tenBit wdata rlen) => some (.execute addr tenBit wdata rlen)
  | _ => none

end Sys2Proof.Machine
end

