-- ==== Sys2Proof/Machine/Ops.lean ====
section
/-! DEFINITION. The named operations over the state: raising a fault, the error entry and the release that returns from
it (60_exceptions.md R245, R248, R249), register-window reads and writes with their check order (20_memory.md R60 to
R68, 40_register_window.md). -/

namespace Sys2Proof.Machine

/-- The outcome of a machine operation. -/
abbrev Outcome := Host.Outcome State Fault Refusal

/-- `hold` (R7): the agent has no enabled step, so nothing changes. -/
def hold (s : State) : Outcome :=
  .next s

/-- Only a controller that is not faulted has a step (R50, R245); a faulted one stops by name. -/
def whenRunning (s : State) (step : Outcome) : Outcome :=
  if s.faults.isEmpty then step else .fault .controllerFaulted

/-- `record(ev)` (R7, R52). -/
def State.record (s : State) (ev : Event) : State :=
  { s with hist := s.hist ++ [ev] }

/-- `raise Fault(reason)` (R7, R50, R245): the sticky bit is set; nothing else changes and nothing is recorded. -/
def State.raise (s : State) (reason : FaultReason) : State :=
  if reason ∈ s.faults then s else { s with faults := s.faults ++ [reason] }

/-- Entry into an error (R248, R194): the result is written and the phase becomes ABORT. -/
def State.abortWith (s : State) (code : ErrCode) : State :=
  { s with result := some (.err code none), phase := .abort }

/-- The end of a request that succeeded (R192): the result is written and the phase becomes DONE. -/
def State.finishOk (s : State) (bytes : List Byte) : State :=
  { s with result := some (.ok bytes), phase := .done }

/-- The entry into a Timeout (R181, R193, R242, R248) of a wait of kind `k`. -/
def State.timeOut (s : State) (k : Wait) : State :=
  { s with
    result := some (.err .timeout (some { wait := k, phase := s.phase, idx := s.idx, bytesRead := s.rbuf }))
    cnt := 0
    phase := .timeout }

/-- The state of requester `r` (R48); `none` where there is no such requester. -/
def State.rqOf (s : State) (r : Requester) : Option RqState :=
  s.rq[r]?

/-- `rq[r] <- x` (R48). -/
def State.setRq (s : State) (r : Requester) (x : RqState) : State :=
  { s with rq := s.rq.set r x }

/-- RELEASE, the return from an error as from a success (R222, R249): the owner's call gets the result, the lock is
free, the engine is IDLE with its per-request registers cleared. Holds outside the terminal phases, and where no owner
or no result is held, which no run reaches (log entry 8). -/
def release (s : State) : Outcome :=
  whenRunning s <|
    if s.phase.terminal then
      match s.owner, s.result with
      | some r, some res =>
        .next
          { (s.setRq r (.returned res)).record (.release r res) with
            lockOwner := none
            owner := none
            req := none
            result := none
            ncfg := none
            rbuf := []
            idx := 0
            cnt := 0
            phase := .idle }
      | _, _ => hold s
    else hold s

/-- The defined bits of a register as a read sees them, and which bits are defined (40_register_window.md R100 to
R129): the stored field of a storage register, or the value computed at this step. -/
def Reg.readBits (r : Reg) (s : State) : Word × Word :=
  match r with
  | .con => (s.regs.con, 0x7F#32)
  | .tar => (s.regs.tar, 0x13FF#32)
  | .sar => (s.regs.sar, 0x3FF#32)
  | .dataCmd =>
    match s.rxFifo with
    | b :: _ => (BitVec.setWidth 32 b, 0xFF#32)
    | [] => (0#32, 0#32)
  | .ssHcnt => (s.regs.ssHcnt, 0xFFFF#32)
  | .ssLcnt => (s.regs.ssLcnt, 0xFFFF#32)
  | .fsHcnt => (s.regs.fsHcnt, 0xFFFF#32)
  | .fsLcnt => (s.regs.fsLcnt, 0xFFFF#32)
  | .intrStat => (s.intrStatBits, 0x1F#32)
  | .intrMask => (s.regs.intrMask, 0x1F#32)
  | .rawIntrStat => (s.rawBits, 0x1F#32)
  | .rxTl => (s.regs.rxTl, 0xFF#32)
  | .txTl => (s.regs.txTl, 0xFF#32)
  | .clrIntr => (0#32, 0#32)
  | .enable => (s.regs.enable, 1#32)
  | .status => (s.statusBits, 0xB#32)
  | .txflr => (BitVec.setWidth 32 (BitVec.ofNat 16 s.txFifo.length), 0xFFFF#32)
  | .rxflr => (BitVec.setWidth 32 (BitVec.ofNat 16 s.rxFifo.length), 0xFFFF#32)

/-- The value a read returns when the draw is `d`: the defined bits, and the draw in every other bit (R64). -/
def Reg.readWith (r : Reg) (d : Word) (s : State) : Word :=
  ((r.readBits s).1 &&& (r.readBits s).2) ||| (d &&& ~~~ (r.readBits s).2)

/-- The side effect of a read (R67): DATA_CMD pops the RX FIFO, or sets RX_UNDER when it is empty (R106); CLR_INTR
clears the sticky bits (R124). -/
def Reg.readEffect (r : Reg) (s : State) : State :=
  match r with
  | .dataCmd =>
    match s.rxFifo with
    | _ :: rest => { s with rxFifo := rest }
    | [] => { s with sticky := { s.sticky with rxUnder := true } }
  | .clrIntr => { s with sticky := { rxUnder := false, rxOver := false, txOver := false } }
  | .con | .tar | .sar | .ssHcnt | .ssLcnt | .fsHcnt | .fsLcnt | .intrStat | .intrMask | .rawIntrStat | .rxTl | .txTl
  | .enable | .status | .txflr | .rxflr => s

/-- The fault of a 32-bit read of a register of the map, if any: checks 1 and 6 of R68 (R65, R106). -/
def Reg.readFault (r : Reg) (s : State) : Option FaultReason :=
  if !s.mapped then some .unmapped
  else
    match r with
    | .dataCmd => if s.enabled then none else some .dataCmdWhileDisabled
    | .con | .tar | .sar | .ssHcnt | .ssLcnt | .fsHcnt | .fsLcnt | .intrStat | .intrMask | .rawIntrStat | .rxTl
    | .txTl | .clrIntr | .enable | .status | .txflr | .rxflr => none

/-- `MemRead(BASE + off, 4)` of a register of the map: the value returned and the state after, or the fault. The value
is recorded and returned to the issuer. -/
def memRead (r : Reg) (s : State) : Except FaultReason (Word × State) :=
  match r.readFault s with
  | some reason => .error reason
  | none =>
    let v := r.readWith s.draw s
    .ok (v, { (r.readEffect s).record (.regRead r.offset v) with drawCount := s.drawCount + 1, rdata := v })

/-- The storage registers with one of them written (R101 to R126). A register without storage takes no value. -/
def Regs.set (g : Regs) (r : Reg) (v : Word) : Regs :=
  match r with
  | .con => { g with con := v }
  | .tar => { g with tar := v }
  | .sar => { g with sar := v }
  | .ssHcnt => { g with ssHcnt := v }
  | .ssLcnt => { g with ssLcnt := v }
  | .fsHcnt => { g with fsHcnt := v }
  | .fsLcnt => { g with fsLcnt := v }
  | .intrMask => { g with intrMask := v }
  | .rxTl => { g with rxTl := v }
  | .txTl => { g with txTl := v }
  | .enable => { g with enable := v }
  | .dataCmd | .intrStat | .rawIntrStat | .clrIntr | .status | .txflr | .rxflr => g

/-- The fault conditions of a register's own write rule, in the order its pseudocode tests them: check 6 of R68
(R101, R103, R105, R107, R109, R111, R113, R115, R126). -/
def Reg.writeFault (r : Reg) (v : Word) (s : State) : Option FaultReason :=
  match r with
  | .con =>
    if s.enabled then some .conWhileEnabled
    else if v.extractLsb' 1 2 = 0#2 || v.extractLsb' 1 2 = 3#2 then some .badSpeed
    else none
  | .tar => if s.activity then some .tarWhileActive else none
  | .sar => if s.enabled then some .sarWhileEnabled else none
  | .dataCmd => if s.enabled then none else some .dataCmdWhileDisabled
  | .ssHcnt | .ssLcnt | .fsHcnt | .fsLcnt => if s.enabled || s.activity then some .timingWhileEnabled else none
  | .enable => if s.enabled && !v.getLsbD 0 && s.activity then some .disableWhileActive else none
  | .intrMask | .rxTl | .txTl => none
  | .intrStat | .rawIntrStat | .clrIntr | .status | .txflr | .rxflr => none

/-- The first fault of a 32-bit write to a register of the map, in the order of R68: unmapped, read-only, reserved
bits, the register's own conditions. -/
def Reg.firstWriteFault (r : Reg) (v : Word) (s : State) : Option FaultReason :=
  if !s.mapped then some .unmapped
  else if r.readOnly then some .roWrite
  else if r.setsReserved v then some .reservedBits
  else r.writeFault v s

/-- DATA_CMD write (R107) with a TX FIFO of depth `depth`: the token is pushed, or dropped with TX_OVER set when the
FIFO is full. -/
def pushToken (depth : Nat) (s : State) (t : Token) : State :=
  if s.txFifo.length < depth then { s with txFifo := s.txFifo ++ [t] }
  else { s with sticky := { s.sticky with txOver := true } }

/-- The effect of a write (40_register_window.md): the defined bits are stored; DATA_CMD pushes (R107); a write of
ENABLE with bit 0 clear empties both FIFOs and records Flush (R126). -/
def Reg.writeEffect (r : Reg) (v : Word) (s : State) : State :=
  match r with
  | .dataCmd => pushToken s.params.txDepth s (tokenOf v)
  | .enable =>
    let s' := { s with regs := s.regs.set .enable (v &&& Reg.writeMask .enable) }
    if v.getLsbD 0 then s' else { s' with txFifo := [], rxFifo := [] }.record .flush
  | .con | .tar | .sar | .ssHcnt | .ssLcnt | .fsHcnt | .fsLcnt | .intrMask | .rxTl | .txTl =>
    { s with regs := s.regs.set r (v &&& r.writeMask) }
  | .intrStat | .rawIntrStat | .clrIntr | .status | .txflr | .rxflr => s

/-- `MemWrite(BASE + off, 4, v)` of a register of the map: the state after, or the fault. -/
def memWrite (r : Reg) (v : Word) (s : State) : Except FaultReason State :=
  match r.firstWriteFault v s with
  | some reason => .error reason
  | none => .ok ((r.writeEffect v s).record (.regWrite r.offset v))

/-- A register read as an instruction of its own: its effect, or its fault. -/
def runRead (r : Reg) (s : State) : Outcome :=
  whenRunning s <|
    match memRead r s with
    | .error reason => .next (s.raise reason)
    | .ok (_, s') => .next s'

/-- A register write as an instruction of its own: its effect, or its fault. -/
def runWrite (r : Reg) (v : Word) (s : State) : Outcome :=
  whenRunning s <|
    match memWrite r v s with
    | .error reason => .next (s.raise reason)
    | .ok s' => .next s'

/-- A register access with no legal REG encoding (R61 to R63, R90): the fault of the first failed check of R68. -/
def runIllegal (reason : FaultReason) (s : State) : Outcome :=
  whenRunning s (.next (s.raise (if s.mapped then reason else .unmapped)))

end Sys2Proof.Machine
end

