-- ==== Sys2Proof/Machine/Poll.lean ====
section
/-! DEFINITION. The engine's shared steps: one register access and then a change of the engine's registers, and the
poll loop that every wait of the engine is (43_transfer_engine.md R181). A fault leaves the phase as it was
(60_exceptions.md R245). -/

namespace Sys2Proof.Machine

/-- An engine step that writes a register and then changes the engine's registers as `after` says. -/
def engineWrite (r : Reg) (v : Word) (after : State → State) (s : State) : Outcome :=
  match memWrite r v s with
  | .error reason => .next (s.raise reason)
  | .ok s' => .next (after s')

/-- An engine step that reads a register and then changes the engine's registers as `after` says of the value read. -/
def engineRead (r : Reg) (after : Word → State → State) (s : State) : Outcome :=
  match memRead r s with
  | .error reason => .next (s.raise reason)
  | .ok (v, s') => .next (after v s')

/-- What one STATUS read of a poll loop does to the engine's registers (R181): success goes to phase `next`; a failure
counts while the bound allows it, else the wait of kind `k` has timed out. -/
def pollAfter (bound : Nat) (k : Wait) (success : Word → Bool) (next : Phase) (v : Word) (s : State) : State :=
  if success v then { s with cnt := 0, phase := next }
  else if s.cnt < bound then { s with cnt := s.cnt + 1 }
  else s.timeOut k

/-- One step of a poll loop (R181). -/
def poll (bound : Nat) (k : Wait) (success : Word → Bool) (next : Phase) (s : State) : Outcome :=
  engineRead .status (pollAfter bound k success next) s

/-- BUS_WAIT (R184): wait for ACTIVITY = 0, then go to `next`. -/
def busWaitStep (next : Phase) (s : State) : Outcome :=
  poll s.params.nBus .bus (fun v => !readsActive v) next s

end Sys2Proof.Machine
end

