-- ==== Sys2Proof/Machine/Timing.lean ====
section
/-! DEFINITION. The timing configuration (41_timing_config.md): the count function, the configuration of a target
frequency, the eight CFG steps, and the requests INIT and SET_SPEED. -/

namespace Sys2Proof.Machine

/-- The least integer at or above `a / b`, for `b > 0` (R8). -/
def ceilDiv (a b : Nat) : Nat :=
  (a + b - 1) / b

/-- `COUNT_FN(f)` with its default (R141): the high and the low count. -/
def countFn (fIn f : Nat) : Nat × Nat :=
  let n := ceilDiv fIn f
  let l := ceilDiv (53 * n) 100
  (n - l, l)

/-- A count pair is valid (R141). -/
def countsValid (c : Nat × Nat) : Bool :=
  decide (1 ≤ c.1) && decide (c.1 ≤ 0xFFFF) && decide (1 ≤ c.2) && decide (c.2 ≤ 0xFFFF)

/-- COUNT_FN as the parameter says (R1, R141): the default, or another function of the frequency. Whatever that one is,
it meets R142: where its pair is valid and would give a faster bus than requested, the default's pair stands in
(DESIGN CHOICE, safe, log entry 10). -/
def Params.countFn (p : Params) (f : Nat) : Nat × Nat :=
  match p.counts with
  | .byDefault => Machine.countFn p.fIn f
  | .other k =>
    let c := Config.otherCounts k f
    if countsValid c && decide (f * (c.1 + c.2) < p.fIn) then Machine.countFn p.fIn f else c

/-- The speed mode of a target frequency (R143). -/
def speedOf (f : Nat) : Speed :=
  if f ≤ 100000 then .standard else .fast

/-- `freq_ok(f)` (R144). -/
def freqOk (p : Params) (f : Nat) : Bool :=
  decide (0 < f) && decide (f ≤ 400000) && countsValid (p.countFn (min f 100000)) &&
    countsValid (p.countFn (min f 400000))

/-- `cfg_of(f)` (R146). -/
def cfgOf (p : Params) (f : Nat) : BusConfig where
  fTarget := f
  speed := speedOf f
  ssH := BitVec.ofNat 16 (p.countFn (min f 100000)).1
  ssL := BitVec.ofNat 16 (p.countFn (min f 100000)).2
  fsH := BitVec.ofNat 16 (p.countFn (min f 400000)).1
  fsL := BitVec.ofNat 16 (p.countFn (min f 400000)).2
  intrMask := 0
  rxTl := none
  txTl := none

/-- The step to the next CFG phase. -/
def toPhase (p : Phase) (s : State) : State :=
  { s with phase := p }

/-- CFG_ENABLE's commit (R154). -/
def commitConfig (s : State) : State :=
  { s with cfg := s.ncfg, ncfg := none, initialized := true }.finishOk []

/-- The eight CFG steps (R147 to R154), shared by INIT and SET_SPEED. In another phase, or with no config being
programmed, no rule gives a step, so the engine holds (log entry 8). -/
def cfgStep (s : State) : Outcome :=
  match s.phase, s.ncfg with
  | .cfgDisable, _ => engineWrite .enable 0#32 (toPhase .cfgSsHcnt) s
  | .cfgSsHcnt, some c => engineWrite .ssHcnt (countValue c.ssH) (toPhase .cfgSsLcnt) s
  | .cfgSsLcnt, some c => engineWrite .ssLcnt (countValue c.ssL) (toPhase .cfgFsHcnt) s
  | .cfgFsHcnt, some c => engineWrite .fsHcnt (countValue c.fsH) (toPhase .cfgFsLcnt) s
  | .cfgFsLcnt, some c => engineWrite .fsLcnt (countValue c.fsL) (toPhase .cfgCon) s
  | .cfgCon, some c => engineWrite .con (conValue c.speed) (toPhase .cfgMask) s
  | .cfgMask, _ => engineWrite .intrMask 0#32 (toPhase .cfgEnable) s
  | .cfgEnable, _ => engineWrite .enable 1#32 commitConfig s
  | _, _ => hold s

/-- INIT's validation (R145): AlreadyInitialized first, then the frequency. -/
def validateInit (p : Params) (f : Nat) (s : State) : State :=
  if s.initialized then s.abortWith .alreadyInitialized
  else if !freqOk p f then s.abortWith .invalidArgument
  else { s with ncfg := some (cfgOf p f), phase := .cfgDisable }

/-- SET_SPEED's validation (R155): NotInitialized first, then the frequency; then the bus-free wait. -/
def validateSetSpeed (p : Params) (f : Nat) (s : State) : State :=
  if !s.initialized then s.abortWith .notInitialized
  else if !freqOk p f then s.abortWith .invalidArgument
  else { s with ncfg := some (cfgOf p f), cnt := 0, phase := .busWait }

/-- The engine's step for a request being served: only the engine that serves `q` has one (R180, R182). -/
def whileServing (q : Request) (s : State) (step : Outcome) : Outcome :=
  whenRunning s (if s.req = some q then step else hold s)

/-- INIT (R145, R147 to R154): the engine's next step for the request `INIT(f)`, as its phase says. -/
def execInit (f : Nat) (s : State) : Outcome :=
  whileServing (.init f) s <|
    match s.phase with
    | .validate => .next (validateInit s.params f s)
    | _ => cfgStep s

/-- SET_SPEED (R155, R184, R147 to R154): the engine's next step for the request `SET_SPEED(f)`, as its phase says. -/
def execSetSpeed (f : Nat) (s : State) : Outcome :=
  whileServing (.setSpeed f) s <|
    match s.phase with
    | .validate => .next (validateSetSpeed s.params f s)
    | .busWait => busWaitStep .cfgDisable s
    | _ => cfgStep s

end Sys2Proof.Machine
end

