-- ==== Sys2Proof/Machine/Engine.lean ====
section
/-! DEFINITION. The transfer engine's EXECUTE (43_transfer_engine.md R180 to R191): one phase a step. -/

namespace Sys2Proof.Machine

/-- EXECUTE's validation (R183): the per-request registers are cleared, then NotInitialized, then the fields (R88). -/
def validateExecute (maxLen : Option Nat) (addr : Nat) (tenBit : Bool) (wdata : List Byte) (rlen : Nat)
    (s : State) : State :=
  let s' := { s with rbuf := [], idx := 0, cnt := 0 }
  if !s.initialized then s'.abortWith .notInitialized
  else if !executeValid maxLen addr tenBit wdata rlen then s'.abortWith .invalidArgument
  else { s' with phase := .busWait }

/-- After the TAR write (R185, R195): the write phase, or straight to the read phase when there is nothing to write. -/
def afterAddress (wlen : Nat) (s : State) : State :=
  { s with idx := 0, phase := if wlen > 0 then .wrPoll else .rdPollTx }

/-- After the push of a write byte (R187, R195). -/
def afterPush (wlen rlen : Nat) (s : State) : State :=
  if s.idx + 1 < wlen then { s with idx := s.idx + 1, phase := .wrPoll }
  else if rlen > 0 then { s with idx := 0, phase := .rdPollTx }
  else { s with idx := s.idx + 1 }.finishOk []

/-- After the pop of a read byte (R191): `v` is the value read, masked to 8 bits. -/
def afterPop (rlen : Nat) (v : Word) (s : State) : State :=
  let s' := { s with rbuf := s.rbuf ++ [receivedByte v], idx := s.idx + 1 }
  if s.idx + 1 < rlen then { s' with phase := .rdPollTx } else s'.finishOk s'.rbuf

/-- EXECUTE (R180): the engine's next step for the request, as its phase says. In a phase no rule gives the request a
step in, the engine holds (log entry 8). How many stale bytes timed-out reads can leave is what these steps make of it:
where R267 derives that there is at most one, the step rules R181, R189 to R191 and R193 allow one for each read timeout,
and the model follows them (DESIGN CHOICE, safe, log entry 27); R267's bound is a premise for claims, `AtMostOneStale`. -/
def execExecute (addr : Nat) (tenBit : Bool) (wdata : List Byte) (rlen : Nat) (s : State) : Outcome :=
  whileServing (.execute addr tenBit wdata rlen) s <|
    match s.phase with
    | .validate => .next (validateExecute s.params.maxLen addr tenBit wdata rlen s)
    | .busWait => busWaitStep .addressSet s
    | .addressSet => engineWrite .tar (tarValue addr tenBit) (afterAddress wdata.length) s
    | .wrPoll => poll s.params.nFifo .tx readsTxRoom .wrPush s
    | .wrPush =>
      match wdata[s.idx]? with
      | some b => engineWrite .dataCmd (writeTokenValue b) (afterPush wdata.length rlen) s
      | none => hold s
    | .rdPollTx => poll s.params.nFifo .tx readsTxRoom .rdPush s
    | .rdPush => engineWrite .dataCmd readTokenValue (toPhase .rdPollRx) s
    | .rdPollRx => poll s.params.nFifo .rx readsRxByte .rdPop s
    | .rdPop => engineRead .dataCmd (afterPop rlen) s
    | _ => hold s

end Sys2Proof.Machine
end

