-- ==== Sys2Proof/Machine/WindowRead.lean ====
section
/-! DEFINITION. The meanings of the eighteen register reads (40_register_window.md), each one read of its register
through the shared operation `runRead`. -/

namespace Sys2Proof.Machine

/-- RD.CON (R100). -/
def execRdCon (s : State) : Outcome :=
  runRead .con s

/-- RD.TAR (R102). -/
def execRdTar (s : State) : Outcome :=
  runRead .tar s

/-- RD.SAR (R104). -/
def execRdSar (s : State) : Outcome :=
  runRead .sar s

/-- RD.DATA_CMD (R106: pops one received byte, or sets RX_UNDER; a fault while disabled). -/
def execRdDataCmd (s : State) : Outcome :=
  runRead .dataCmd s

/-- RD.SS_HCNT (R108). -/
def execRdSsHcnt (s : State) : Outcome :=
  runRead .ssHcnt s

/-- RD.SS_LCNT (R110). -/
def execRdSsLcnt (s : State) : Outcome :=
  runRead .ssLcnt s

/-- RD.FS_HCNT (R112). -/
def execRdFsHcnt (s : State) : Outcome :=
  runRead .fsHcnt s

/-- RD.FS_LCNT (R114). -/
def execRdFsLcnt (s : State) : Outcome :=
  runRead .fsLcnt s

/-- RD.INTR_STAT (R116). -/
def execRdIntrStat (s : State) : Outcome :=
  runRead .intrStat s

/-- RD.INTR_MASK (R117). -/
def execRdIntrMask (s : State) : Outcome :=
  runRead .intrMask s

/-- RD.RAW_INTR_STAT (R119). -/
def execRdRawIntrStat (s : State) : Outcome :=
  runRead .rawIntrStat s

/-- RD.RX_TL (R120). -/
def execRdRxTl (s : State) : Outcome :=
  runRead .rxTl s

/-- RD.TX_TL (R122). -/
def execRdTxTl (s : State) : Outcome :=
  runRead .txTl s

/-- RD.CLR_INTR (R124: clears the sticky bits). -/
def execRdClrIntr (s : State) : Outcome :=
  runRead .clrIntr s

/-- RD.ENABLE (R125). -/
def execRdEnable (s : State) : Outcome :=
  runRead .enable s

/-- RD.STATUS (R127). -/
def execRdStatus (s : State) : Outcome :=
  runRead .status s

/-- RD.TXFLR (R128). -/
def execRdTxflr (s : State) : Outcome :=
  runRead .txflr s

/-- RD.RXFLR (R129). -/
def execRdRxflr (s : State) : Outcome :=
  runRead .rxflr s

end Sys2Proof.Machine
end

