-- ==== Sys2Proof/Machine/WindowWrite.lean ====
section
/-! DEFINITION. The meanings of the twelve register writes (40_register_window.md), each one write of its register
through the shared operation `runWrite`. -/

namespace Sys2Proof.Machine

/-- WR.CON (R101: CON_WHILE_ENABLED, then BAD_SPEED). -/
def execWrCon (v : Word) (s : State) : Outcome :=
  runWrite .con v s

/-- WR.TAR (R103: TAR_WHILE_ACTIVE). -/
def execWrTar (v : Word) (s : State) : Outcome :=
  runWrite .tar v s

/-- WR.SAR (R105: SAR_WHILE_ENABLED). -/
def execWrSar (v : Word) (s : State) : Outcome :=
  runWrite .sar v s

/-- WR.DATA_CMD (R107: pushes a token, or sets TX_OVER; DATA_CMD_WHILE_DISABLED). -/
def execWrDataCmd (v : Word) (s : State) : Outcome :=
  runWrite .dataCmd v s

/-- WR.SS_HCNT (R109: TIMING_WHILE_ENABLED). -/
def execWrSsHcnt (v : Word) (s : State) : Outcome :=
  runWrite .ssHcnt v s

/-- WR.SS_LCNT (R111: TIMING_WHILE_ENABLED). -/
def execWrSsLcnt (v : Word) (s : State) : Outcome :=
  runWrite .ssLcnt v s

/-- WR.FS_HCNT (R113: TIMING_WHILE_ENABLED). -/
def execWrFsHcnt (v : Word) (s : State) : Outcome :=
  runWrite .fsHcnt v s

/-- WR.FS_LCNT (R115: TIMING_WHILE_ENABLED). -/
def execWrFsLcnt (v : Word) (s : State) : Outcome :=
  runWrite .fsLcnt v s

/-- WR.INTR_MASK (R118). -/
def execWrIntrMask (v : Word) (s : State) : Outcome :=
  runWrite .intrMask v s

/-- WR.RX_TL (R121). -/
def execWrRxTl (v : Word) (s : State) : Outcome :=
  runWrite .rxTl v s

/-- WR.TX_TL (R123). -/
def execWrTxTl (v : Word) (s : State) : Outcome :=
  runWrite .txTl v s

/-- WR.ENABLE (R126: DISABLE_WHILE_ACTIVE; a write of 0 flushes). -/
def execWrEnable (v : Word) (s : State) : Outcome :=
  runWrite .enable v s

end Sys2Proof.Machine
end

