-- ==== Sys2Proof/Machine/Oracle.lean ====
section
/-! DEFINITION. The peripheral oracle (42_fifo_interface.md R168) and the fake peripheral of 95_test_vectors.md
section 0.3. -/

namespace Sys2Proof.Machine

/-- The state of the fake peripheral at address `A` (95_test_vectors.md section 0.3): 256 bytes, an index pointer, and
whether a bus transaction has just begun. -/
structure Fake where
  mem : Byte → Byte
  ptr : Byte
  fresh : Bool

/-- What an event does to the fake peripheral at `A`. -/
def Fake.on (A : BitVec 10) (p : Fake) : Event → Fake
  | .wStart a => if a = A then { p with fresh := true } else p
  | .wTx a b =>
    if a = A then
      if p.fresh then { p with ptr := b, fresh := false }
      else { p with mem := fun i => if i = p.ptr then b else p.mem i, ptr := p.ptr + 1 }
    else p
  | .wRx a _ => if a = A then { p with fresh := false, ptr := p.ptr + 1 } else p
  | .regRead _ _ | .regWrite _ _ | .grant _ _ | .release _ _ | .wStop | .wAbort | .flush => p

/-- The fake peripheral after a history, from the memory `m0`. -/
def Fake.after (A : BitVec 10) (m0 : Byte → Byte) (h : List Event) : Fake :=
  h.foldl (Fake.on A) { mem := m0, ptr := 0, fresh := false }

/-- `FAKE(A, m0)` as an oracle: other addresses and 10-bit addresses read 0xFF. -/
def fakePeriph (A : BitVec 10) (m0 : Byte → Byte) (h : List Event) (addr : BitVec 10) (tenBit : Bool) : Byte :=
  if addr = A ∧ tenBit = false then (Fake.after A m0 h).mem (Fake.after A m0 h).ptr else 0xFF#8

/-- `Periph(hist, addr, ten_bit)` of the oracle that is the parameter (R168). -/
def Oracle.answer (o : Oracle) (h : List Event) (addr : BitVec 10) (tenBit : Bool) : Byte :=
  match o with
  | .free k => Config.periph k h addr tenBit
  | .fake a contents => fakePeriph a (fun i => contents.getD i.toNat 0) h addr tenBit

end Sys2Proof.Machine
end

