-- ==== Sys2Proof/Machine/Wire.lean ====
section
/-! DEFINITION. The wire agent's steps (42_fifo_interface.md R163 to R169): the two token instructions WTOK and RTOK,
which complete the token in flight, and W_TAKE, W_END and W_ABORT. Each holds where the rule does not enable it. -/

namespace Sys2Proof.Machine

/-- W_SEND is enabled for the write token with byte `b` (R163, R165). -/
def sendEnabled (b : Byte) (s : State) : Bool :=
  s.wireEnabled && decide (s.wire.inflight = some { cmd := false, dat := b })

/-- WTOK: W_SEND completes a write token (R165). -/
def execWtok (dat : Byte) (s : State) : Outcome :=
  whenRunning s <|
    if sendEnabled dat s then
      .next { s.record (.wTx s.target dat) with wire := { s.wire with inflight := none } }
    else hold s

/-- W_RECV is enabled for the read token with data field `d`: there is room in an RX FIFO of depth `depth` (R163, R166). -/
def recvEnabled (depth : Nat) (d : Byte) (s : State) : Bool :=
  s.wireEnabled && decide (s.wire.inflight = some { cmd := true, dat := d }) && decide (s.rxFifo.length < depth)

/-- W_RECV when the oracle answers `b` (R166). -/
def receive (b : Byte) (s : State) : State :=
  { s.record (.wRx s.target b) with
    rxFifo := s.rxFifo ++ [b]
    wire := { s.wire with inflight := none } }

/-- RTOK: W_RECV completes a read token with the byte the peripheral oracle answers (R166, R168); its data field is
ignored. -/
def execRtok (dat : Byte) (s : State) : Outcome :=
  whenRunning s <|
    if recvEnabled s.params.rxDepth dat s then
      .next (receive (s.params.oracle.answer s.hist s.target s.tenBit) s)
    else hold s

/-- W_TAKE (R164): the oldest token is taken; the first take after an idle bus begins a bus transaction. -/
def wireTake (s : State) : Outcome :=
  whenRunning s <|
    match s.txFifo with
    | tok :: rest =>
      if s.wireEnabled && s.wire.inflight.isNone then
        let taken := { s with txFifo := rest, wire := { inflight := some tok, busBusy := true } }
        .next (if s.wire.busBusy then taken else taken.record (.wStart s.target))
      else hold s
    | [] => hold s

/-- W_END (R167): the bus is released. -/
def wireEnd (s : State) : Outcome :=
  whenRunning s <|
    if s.wireEnabled && s.wire.busBusy && s.wire.inflight.isNone && s.txFifo.isEmpty then
      .next { s.record .wStop with wire := { s.wire with busBusy := false } }
    else hold s

/-- W_ABORT (R169) under the parameter W_MAY_ABORT: the queued and in-flight tokens are discarded. -/
def wireAbort (mayAbort : Bool) (s : State) : Outcome :=
  whenRunning s <|
    if s.wireEnabled && mayAbort && (s.wire.inflight.isSome || !s.txFifo.isEmpty) then
      .next { s.record .wAbort with txFifo := [], wire := { s.wire with inflight := none } }
    else hold s

end Sys2Proof.Machine
end

