-- ==== Sys2Proof/Machine/Dispatch.lean ====
section
/-! DEFINITION. The dispatch: one arm per instruction, each one call of that instruction's meaning. -/

namespace Sys2Proof.Machine

open Sys2Proof

/-- The meaning of every instruction of the opcode table. -/
def exec (i : Instr) (s : State) : Host.Outcome State Fault Refusal :=
  match i with
  | .rdCon => Sys2Proof.Machine.execRdCon s
  | .rdTar => Sys2Proof.Machine.execRdTar s
  | .rdSar => Sys2Proof.Machine.execRdSar s
  | .rdDataCmd => Sys2Proof.Machine.execRdDataCmd s
  | .rdSsHcnt => Sys2Proof.Machine.execRdSsHcnt s
  | .rdSsLcnt => Sys2Proof.Machine.execRdSsLcnt s
  | .rdFsHcnt => Sys2Proof.Machine.execRdFsHcnt s
  | .rdFsLcnt => Sys2Proof.Machine.execRdFsLcnt s
  | .rdIntrStat => Sys2Proof.Machine.execRdIntrStat s
  | .rdIntrMask => Sys2Proof.Machine.execRdIntrMask s
  | .rdRawIntrStat => Sys2Proof.Machine.execRdRawIntrStat s
  | .rdRxTl => Sys2Proof.Machine.execRdRxTl s
  | .rdTxTl => Sys2Proof.Machine.execRdTxTl s
  | .rdClrIntr => Sys2Proof.Machine.execRdClrIntr s
  | .rdEnable => Sys2Proof.Machine.execRdEnable s
  | .rdStatus => Sys2Proof.Machine.execRdStatus s
  | .rdTxflr => Sys2Proof.Machine.execRdTxflr s
  | .rdRxflr => Sys2Proof.Machine.execRdRxflr s
  | .wrCon v => Sys2Proof.Machine.execWrCon v s
  | .wrTar v => Sys2Proof.Machine.execWrTar v s
  | .wrSar v => Sys2Proof.Machine.execWrSar v s
  | .wrDataCmd v => Sys2Proof.Machine.execWrDataCmd v s
  | .wrSsHcnt v => Sys2Proof.Machine.execWrSsHcnt v s
  | .wrSsLcnt v => Sys2Proof.Machine.execWrSsLcnt v s
  | .wrFsHcnt v => Sys2Proof.Machine.execWrFsHcnt v s
  | .wrFsLcnt v => Sys2Proof.Machine.execWrFsLcnt v s
  | .wrIntrMask v => Sys2Proof.Machine.execWrIntrMask v s
  | .wrRxTl v => Sys2Proof.Machine.execWrRxTl v s
  | .wrTxTl v => Sys2Proof.Machine.execWrTxTl v s
  | .wrEnable v => Sys2Proof.Machine.execWrEnable v s
  | .wtok dat => Sys2Proof.Machine.execWtok dat s
  | .rtok dat => Sys2Proof.Machine.execRtok dat s
  | .init f => Sys2Proof.Machine.execInit f s
  | .setSpeed f => Sys2Proof.Machine.execSetSpeed f s
  | .execute addr tenBit wdata rlen => Sys2Proof.Machine.execExecute addr tenBit wdata rlen s

end Sys2Proof.Machine
end

