-- ==== Sys2Proof/Machine/Lock.lean ====
section
/-! DEFINITION. The bus lock and the requesters (44_bus_lock.md): GRANT, ISSUE and COLLECT, and the session helpers as
a requester calls them (45_peripheral_session.md). RELEASE stands in Ops.lean. Each holds where its rule does not
enable it. -/

namespace Sys2Proof.Machine

/-- Requester `r` may be the one granted under the grant order (R226). -/
def mayGrant (order : LockOrder) (r : Requester) (s : State) : Bool :=
  match order with
  | .any => true
  | .fifo => decide (s.waitQ.head? = some r)

/-- GRANT to requester `r` (R221, R182). -/
def grant (order : LockOrder) (r : Requester) (s : State) : Outcome :=
  whenRunning s <|
    match s.rqOf r with
    | some (.waiting q) =>
      if s.lockOwner.isNone && decide (s.phase = .idle) && mayGrant order r s then
        .next
          { (s.setRq r (.active q)).record (.grant r q) with
            lockOwner := some r
            owner := some r
            req := some q
            phase := .validate
            waitQ := s.waitQ.erase r }
      else hold s
    | _ => hold s

/-- ISSUE of the request `q` by requester `r` (R224), as it is or through the session helper `call`. -/
def issue (r : Requester) (q : Request) (call : Option Helper) (s : State) : Outcome :=
  whenRunning s <|
    match s.rqOf r with
    | some .quiet => .next { s.setRq r (.waiting q) with waitQ := s.waitQ ++ [r], calls := s.calls.set r call }
    | _ => hold s

/-- ISSUE of an encoded request: kind 3 cannot be issued (R90, R224). -/
def issueRecord (r : Requester) (rec : ReqRecord) (s : State) : Outcome :=
  whenRunning s <|
    match requestOf rec with
    | some q => issue r q none s
    | none => .refused .reservedRequestKind

/-- What the call returns when its request has the result `res` (R225, R230 to R233): `read_register` gives the byte of
its Ok, every other call the result as it is, and so does an Err. -/
def returnOf (call : Option Helper) (res : Result) : Returned :=
  match call, res with
  | some (.readRegister _), .ok (b :: _) => .byte b
  | _, _ => .result res

/-- The helper through which requester `r`'s outstanding request was issued, if any. -/
def State.callOf (s : State) (r : Requester) : Option Helper :=
  s.calls.getD r none

/-- COLLECT (R225): the call returns to requester `r`. -/
def collect (r : Requester) (s : State) : Outcome :=
  whenRunning s <|
    match s.rqOf r with
    | some (.returned res) => .next { s.setRq r .quiet with delivered := some (r, returnOf (s.callOf r) res) }
    | _ => hold s

/-- The expansion of a session helper at the session's address (R93, R230 to R233): one EXECUTE, or an error with no
request. -/
def expandHelper (addr : BitVec 7) (h : Helper) : Except Result Request :=
  match h with
  | .readRegister reg => .ok (.execute addr.toNat false [reg] 1)
  | .writeRegister reg value => .ok (.execute addr.toNat false [reg, value] 0)
  | .readBlock reg n =>
    if n = 0 then .error (.err .invalidArgument none) else .ok (.execute addr.toNat false [reg] n)
  | .writeBlock reg data =>
    if data.isEmpty then .error (.err .invalidArgument none) else .ok (.execute addr.toNat false (reg :: data) 0)

/-- A quiet requester calls a session helper (R230 to R235): it issues the expansion, or its call returns the error at
once, with no request issued. -/
def callHelper (r : Requester) (addr : BitVec 7) (h : Helper) (s : State) : Outcome :=
  whenRunning s <|
    match expandHelper addr h with
    | .ok q => issue r q (some h) s
    | .error res =>
      match s.rqOf r with
      | some .quiet => .next { s with delivered := some (r, .result res) }
      | _ => hold s

end Sys2Proof.Machine
end

