-- ==== Sys2Proof/Machine/Fetch.lean ====
section
/-! DEFINITION. Where the next step comes from: the next move, what it fetches, and what a move does that runs no
instruction. The block fetches no instruction stream (20_memory.md R74): an instruction stands in the register access
being made, in the token in flight, or in the request being served (log entries 5 and 7). -/

namespace Sys2Proof.Machine

open Sys2Proof

/-- The move the next step makes: the first of the schedule, or a free one (R4, R70, log entry 4). -/
def State.nextMove (s : State) : Move :=
  match s.sched with
  | m :: _ => m
  | [] => Config.freeMove s.params.inst s.moveCount

/-- The state once that move has been chosen: only the model's own fields change. -/
def State.advance (s : State) : State :=
  match s.sched with
  | _ :: rest => { s with sched := rest }
  | [] => { s with moveCount := s.moveCount + 1 }

/-- The REG code of an access (R80): only a 32-bit access at an offset inside the window has one (R61, R62). -/
def BusAccess.code (a : BusAccess) : Option Code :=
  if a.width = 32 ∧ a.off < Config.windowSize then some (.reg (regWord a.we a.off) a.value) else none

/-- The code of the instruction the next step runs, if its move is one that runs an instruction: the access another
driver makes (R80), the token in flight (R81, R165, R166), the request being served (R82, R180). -/
def fetch (s : State) : Option Code :=
  match s.nextMove with
  | .access a => a.code
  | .wComplete => s.wire.inflight.map Token.code
  | .engine => s.req.map fun q => .req q.record
  | .wTake | .wEnd | .wAbort | .grant _ | .release | .issue _ _ | .collect _ | .helper _ _ _ => none

/-- An illegal encoding (R90): a REG or TOKEN one is an access that faults, a REQ of kind 3 is refused. -/
def runUndecoded (e : DecodeError) (s : State) : Outcome :=
  match e with
  | .badAccess => runIllegal .badAccess s
  | .roWrite => runIllegal .roWrite s
  | .reservedBits => runIllegal .reservedBits s
  | .reservedKind => whenRunning s (.refused .reservedRequestKind)

/-- A move that runs no instruction: an access with no REG code is BAD_ACCESS (R61, R62); a wire agent with nothing in
flight and an engine with no request have no step (R165, R166, R180). -/
def runMove (m : Move) (s : State) : Outcome :=
  match m with
  | .access _ => runIllegal .badAccess s
  | .engine => whenRunning s (hold s)
  | .wTake => wireTake s
  | .wComplete => whenRunning s (hold s)
  | .wEnd => wireEnd s
  | .wAbort => wireAbort s.params.mayAbort s
  | .grant r => grant s.params.lockOrder r s
  | .release => release s
  | .issue r rec => issueRecord r rec s
  | .collect r => collect r s
  | .helper r addr h => callHelper r addr h s

/-- A step: the next move runs the instruction it fetches, or does what that agent's rule says. -/
def runNext (s : State) : Outcome :=
  match fetch s with
  | some code =>
    match decode code with
    | .ok i => exec i s.advance
    | .error e => runUndecoded e s.advance
  | none => runMove s.nextMove s.advance

/-- The state in which requester 0 has been granted the request `q` and the engine is about to validate it: what ISSUE
and GRANT leave of the fields the engine reads (R221, R224). -/
def placeRequest (q : Request) (s : State) : State :=
  { s.setRq 0 (.active q) with
    lockOwner := some 0
    owner := some 0
    req := some q
    phase := .validate
    sched := .engine :: s.sched }

/-- The state in which the token `t` is in flight on an enabled controller in master mode and the wire agent is about
to complete it: what R163 and W_TAKE (R164) ask. -/
def placeToken (t : Token) (s : State) : State :=
  { s with
    regs := { s.regs with con := s.regs.con ||| 1#32, enable := s.regs.enable ||| 1#32 }
    wire := { inflight := some t, busBusy := true }
    sched := .wComplete :: s.sched }

/-- The state in which another driver is about to make the access of a REG word with the operand `v`. -/
def placeAccess (word : BitVec 13) (v : Word) (s : State) : State :=
  { s with
    sched :=
      .access { we := word.getLsbD 12, width := 32, off := (word.extractLsb' 0 12).toNat, value := v } :: s.sched }

/-- A table row's instruction placed where the next step fetches it (log entry 14). A code that is no instruction is
placed as what R90 says it is: a REG word an access, a TOKEN value with a reserved bit set the DATA_CMD write of it, and
a REQ of kind 3, which cannot be placed, as its ISSUE, which is refused. -/
def placeTableWord (nbits w : Nat) (s : State) : State :=
  match tableCode nbits w with
  | .reg word v => placeAccess word v s
  | .token v => if Reg.setsReserved .dataCmd v then placeAccess (regWord true 0x10) v s else placeToken (tokenOf v) s
  | .req rec =>
    match requestOf rec with
    | some q => placeRequest q s
    | none => { s with sched := .issue 0 rec :: s.sched }

end Sys2Proof.Machine
end

