-- ==== Sys2Proof/Machine/Step.lean ====
section
/-! DEFINITION. One step of the machine: one atomic step of one agent (20_memory.md R70). -/

namespace Sys2Proof.Machine

/-- The step: the next move, whatever agent makes it; a faulted controller has none (R50). -/
def step (s : State) : Host.Outcome State Fault Refusal :=
  whenRunning s (runNext s)

/-- `s` with the table row's instruction where `step` fetches its next instruction. -/
def State.withFetchWord (s : State) (nbits w : Nat) : State :=
  placeTableWord nbits w s

end Sys2Proof.Machine
end

