-- ==== Sys2Proof/Machine/Platform.lean ====
section
/-! DEFINITION. Several controllers (00_scope.md R5, 60_exceptions.md R253): NUM_CONTROLLERS instances, each a state of
its own with its own parameters, one of which steps at a time, and runs by a list of moves. -/

namespace Sys2Proof.Machine

/-- The controllers of the platform, by number (R253). Whether two of them have the same parameters, the same oracle or
equal draws the spec leaves open (R1, R54, R168): each has its own parameters, oracle included, and draws, and nothing
relates those of two instance numbers (DESIGN CHOICE, safe, log entry 20). Whether a requester with a request outstanding
at one controller may issue at another the spec leaves open too (R48, R224 and D45 against R5, R253 and D40): requester
`r` has a state of its own at each controller, so it may (DESIGN CHOICE, safe, log entry 26). -/
abbrev Platform := List State

/-- Every controller after reset, its creation (R260, R263): the k-th is the instance k. -/
def Platform.reset : Platform :=
  (List.range Config.numControllers).map fun k => State.resetWith (Config.params k) Regs.zero

/-- A step of controller `k`, with that controller's own parameters, oracle and draws (log entry 20). It reads no other
controller's state (R5), so an ISSUE asks only whether the requester is quiet at this one (log entry 26). A number that names
no controller has no step; a controller that stops does not stop the others (R5). -/
def Platform.stepAt (k : Nat) (p : Platform) : Platform :=
  match p[k]? with
  | some s =>
    match step s with
    | .next s' => p.set k s'
    | .fault _ => p
    | .refused _ => p
  | none => p

/-- The state in which the move `m` comes next. -/
def State.offer (m : Move) (s : State) : State :=
  { s with sched := m :: s.sched }

/-- The run of a list of moves, one step each (R70): its last state, or the first stop. -/
def runMoves : List Move → State → Outcome
  | [], s => .next s
  | m :: ms, s =>
    match step (s.offer m) with
    | .next s' => runMoves ms s'
    | .fault x => .fault x
    | .refused x => .refused x

end Sys2Proof.Machine
end

