-- ==== Sys2Proof/Safety.lean ====
section
/-! DEFINITION. What a good state and a good run are, in the terms the claims use: the invariants the spec states or
derives (R130, R142, R157, R199, R201, R204, R220, R228, R274), the bus period (R140), the stale received bytes (R267),
and the premises on runs that claims may take: the bound of R267, the wire agent's fairness and W_BOUND (R170), and those
of the round-trip laws (R238). -/

namespace Sys2Proof.Machine

/-! ### Moves and phases -/

/-- A move of the block's own agents: every one but another driver's register access (R60, R274). -/
def Move.own : Move → Bool
  | .access _ => false
  | .engine | .wTake | .wComplete | .wEnd | .wAbort | .grant _ | .release | .issue _ _ | .collect _
  | .helper _ _ _ => true

/-- A move of the wire agent. -/
def Move.wire : Move → Bool
  | .wTake | .wComplete | .wEnd | .wAbort => true
  | .access _ | .engine | .grant _ | .release | .issue _ _ | .collect _ | .helper _ _ _ => false

/-- The phases in which ENABLE = 0 is held by a reconfiguration (R204). -/
def Phase.reprogramming : Phase → Bool
  | .cfgSsHcnt | .cfgSsLcnt | .cfgFsHcnt | .cfgFsLcnt | .cfgCon | .cfgMask | .cfgEnable => true
  | .idle | .validate | .busWait | .addressSet | .wrPoll | .wrPush | .rdPollTx | .rdPush | .rdPollRx | .rdPop
  | .cfgDisable | .done | .timeout | .abort => false

/-- The eight CFG phases (R41). -/
def Phase.configuring (p : Phase) : Bool :=
  p.reprogramming || decide (p = .cfgDisable)

/-- The phases of an EXECUTE after its bus-free wait (R180). -/
def Phase.transferring : Phase → Bool
  | .addressSet | .wrPoll | .wrPush | .rdPollTx | .rdPush | .rdPollRx | .rdPop => true
  | .idle | .validate | .busWait | .cfgDisable | .cfgSsHcnt | .cfgSsLcnt | .cfgFsHcnt | .cfgFsLcnt | .cfgCon | .cfgMask
  | .cfgEnable | .done | .timeout | .abort => false

/-- The write phase and the read phase (R41). -/
def Phase.writing (p : Phase) : Bool :=
  decide (p = .wrPoll) || decide (p = .wrPush)

/-- The read phase (R41). -/
def Phase.reading (p : Phase) : Bool :=
  decide (p = .rdPollTx) || decide (p = .rdPush) || decide (p = .rdPollRx) || decide (p = .rdPop)

/-- The bound on the failed polls of a phase: N_BUS or N_FIFO in a poll phase (R181); `none` in any other. -/
def Phase.pollBound (p : Params) : Phase → Option Nat
  | .busWait => some p.nBus
  | .wrPoll | .rdPollTx | .rdPollRx => some p.nFifo
  | .idle | .validate | .addressSet | .wrPush | .rdPush | .rdPop | .cfgDisable | .cfgSsHcnt | .cfgSsLcnt | .cfgFsHcnt
  | .cfgFsLcnt | .cfgCon | .cfgMask | .cfgEnable | .done | .timeout | .abort => none

/-! ### Parameters -/

/-- Values that R1, R34, R35 and R170 allow: depths of at least 1 whose levels fit in 16 bits, an input clock, a
requester, and a W_BOUND, where there is one, of at most N_FIFO. -/
def Params.Valid (p : Params) : Prop :=
  1 ≤ p.txDepth ∧ p.txDepth ≤ 0xFFFF ∧ 1 ≤ p.rxDepth ∧ p.rxDepth ≤ 0xFFFF ∧ 0 < p.fIn ∧ 1 ≤ p.numRequesters ∧
    ∀ b, p.wBound = some b → b ≤ p.nFifo

/-! ### Invariants of every run -/

/-- Nothing is queued and the wire agent is idle. -/
def SerialIdle (s : State) : Prop :=
  s.txFifo = [] ∧ s.rxFifo = [] ∧ s.wire.inflight = none ∧ s.wire.busBusy = false

/-- R130: while ENABLE[0] = 0 both FIFOs are empty and the wire agent is idle. -/
def DisabledIsIdle (s : State) : Prop :=
  s.regs.enable.getLsbD 0 = false → SerialIdle s

/-- R36, R37: no FIFO holds more than its depth. -/
def FifosFit (s : State) : Prop :=
  s.txFifo.length ≤ s.params.txDepth ∧ s.rxFifo.length ≤ s.params.rxDepth

/-- The register fields hold no 1 in a reserved bit. -/
def Regs.ReservedClear (g : Regs) : Prop :=
  g.con &&& 0xFFFFFF80#32 = 0#32 ∧ g.tar &&& 0xFFFFEC00#32 = 0#32 ∧ g.sar &&& 0xFFFFFC00#32 = 0#32 ∧
    g.ssHcnt &&& 0xFFFF0000#32 = 0#32 ∧ g.ssLcnt &&& 0xFFFF0000#32 = 0#32 ∧
    g.fsHcnt &&& 0xFFFF0000#32 = 0#32 ∧ g.fsLcnt &&& 0xFFFF0000#32 = 0#32 ∧
    g.intrMask &&& 0xFFFFFFE0#32 = 0#32 ∧ g.rxTl &&& 0xFFFFFF00#32 = 0#32 ∧
    g.txTl &&& 0xFFFFFF00#32 = 0#32 ∧ g.enable &&& 0xFFFFFFFE#32 = 0#32

/-- No reserved bit is ever stored: "a write with 0 in every reserved bit stores only the defined fields" (R64). -/
def ReservedBitsClear (s : State) : Prop :=
  s.regs.ReservedClear

/-- R220, the lock invariant. -/
def LockInvariant (s : State) : Prop :=
  (∀ r, s.lockOwner = some r ↔ ∃ q, s.rq[r]? = some (.active q)) ∧
    (∀ r q, s.rq[r]? = some (.active q) → s.owner = some r ∧ s.req = some q ∧ s.phase ≠ .idle) ∧
    (s.lockOwner = none ↔ s.phase = .idle ∧ s.req = none ∧ s.owner = none)

/-- The waiting requesters are those the issue order lists, each once (R226). -/
def WaitersListed (s : State) : Prop :=
  s.waitQ.Nodup ∧ ∀ r, r ∈ s.waitQ ↔ ∃ q, s.rq[r]? = some (.waiting q)

/-! ### Invariants of the block's own agents -/

/-- The request served fits the phase (R180; 41_timing_config.md sections 3 and 4), and a transfer is served only after INIT (R183). -/
def ServesItsPhase (s : State) : Prop :=
  (s.phase.configuring = true → ∃ f, s.req = some (.init f) ∨ s.req = some (.setSpeed f)) ∧
    (s.phase.configuring = true → s.ncfg ≠ none) ∧
    (s.phase = .busWait → s.initialized = true ∧
      ((∃ f, s.req = some (.setSpeed f) ∧ s.ncfg ≠ none) ∨
        ∃ a t w n, s.req = some (.execute a t w n) ∧ w.length + n ≥ 1)) ∧
    (s.phase.transferring = true → s.initialized = true ∧ ∃ a t w n, s.req = some (.execute a t w n) ∧
      (s.phase.writing = true → s.idx < w.length) ∧ (s.phase.reading = true → s.idx < n) ∧
      (s.phase = .addressSet → w.length + n ≥ 1))

/-- What every run of the block's own agents keeps: no fault is raised (R274), the disabled controller is idle (R130),
nothing is queued before the first INIT (R145) and nothing is active where a disable or a TAR write is made (R184), the
enable invariant (R204), the tested FIFO bits stay as the poll read them (R199), the failed polls are counted within
the bound (R42, R181), a result is held exactly in the terminal phases (R44), and the lock invariant (R220). -/
structure RunInvariant (s : State) : Prop where
  mapped : s.mapped = true
  noFault : s.faults = []
  disabledIsIdle : DisabledIsIdle s
  fifosFit : FifosFit s
  idleBeforeInit : s.initialized = false → SerialIdle s
  enabledAfterInit : s.initialized = true → s.phase.reprogramming = false →
    s.regs.enable.getLsbD 0 = true ∧ s.regs.con.getLsbD 0 = true
  disabledWhileProgramming : s.phase.reprogramming = true → s.regs.enable.getLsbD 0 = false
  masterWhenProgrammed : s.phase = .cfgMask ∨ s.phase = .cfgEnable → s.regs.con.getLsbD 0 = true
  quietBus : s.phase = .cfgDisable ∨ s.phase = .addressSet →
    s.txFifo = [] ∧ s.wire.inflight = none ∧ s.wire.busBusy = false
  serves : ServesItsPhase s
  roomToPush : s.phase = .wrPush ∨ s.phase = .rdPush → s.txFifo.length < s.params.txDepth
  byteToPop : s.phase = .rdPop → s.rxFifo ≠ []
  pollsCounted : match s.phase.pollBound s.params with
    | some bound => s.cnt ≤ bound
    | none => s.cnt = 0
  resultWhenDone : s.result.isSome = s.phase.terminal
  lock : LockInvariant s

/-- The most engine steps a request can still take (R228), by phase. -/
def stepsLeft (s : State) : Nat :=
  let wr (k : Nat) := k * (s.params.nFifo + 2)
  let rd (k : Nat) := k * (2 * s.params.nFifo + 4)
  match s.phase with
  | .idle | .done | .timeout | .abort => 0
  | .cfgEnable => 1
  | .cfgMask => 2
  | .cfgCon => 3
  | .cfgFsLcnt => 4
  | .cfgFsHcnt => 5
  | .cfgSsLcnt => 6
  | .cfgSsHcnt => 7
  | .cfgDisable => 8
  | .validate =>
    match s.req with
    | some (.init _) => 1 + 8
    | some (.setSpeed _) => 1 + (s.params.nBus + 1) + 8
    | some (.execute _ _ w n) => 1 + (s.params.nBus + 1) + 1 + wr w.length + rd n
    | none => 0
  | .busWait =>
    match s.req with
    | some (.execute _ _ w n) => (s.params.nBus + 1 - s.cnt) + 1 + wr w.length + rd n
    | _ => (s.params.nBus + 1 - s.cnt) + 8
  | .addressSet | .wrPoll | .wrPush | .rdPollTx | .rdPush | .rdPollRx | .rdPop =>
    match s.req with
    | some (.execute _ _ w n) =>
      match s.phase with
      | .addressSet => 1 + wr w.length + rd n
      | .wrPoll => (s.params.nFifo + 1 - s.cnt) + 1 + wr (w.length - s.idx - 1) + rd n
      | .wrPush => 1 + wr (w.length - s.idx - 1) + rd n
      | .rdPollTx => (s.params.nFifo + 1 - s.cnt) + 1 + (s.params.nFifo + 1) + 1 + rd (n - s.idx - 1)
      | .rdPush => 1 + (s.params.nFifo + 1) + 1 + rd (n - s.idx - 1)
      | .rdPollRx => (s.params.nFifo + 1 - s.cnt) + 1 + rd (n - s.idx - 1)
      | _ => 1 + rd (n - s.idx - 1)
    | _ => 0

/-! ### Stale received bytes -/

/-- The read tokens pushed whose bytes have not been popped: queued, in flight, or completed into the RX FIFO. -/
def State.unreadBytes (s : State) : Nat :=
  s.txFifo.countP Token.cmd + s.wire.inflight.toList.countP Token.cmd + s.rxFifo.length

/-- The stale received bytes (R267): those of read tokens that no request waits for any more, arrived or still to come.
A request that waits for a byte or is about to pop one has one unread token of its own. -/
def State.staleBytes (s : State) : Nat :=
  s.unreadBytes - if s.phase = .rdPollRx ∨ s.phase = .rdPop then 1 else 0

/-- R267, "At most one such byte exists": a premise for claims. It holds after at most one read timeout; a second one may
leave a second stale byte (log entry 27). -/
def AtMostOneStale (s : State) : Prop :=
  s.staleBytes ≤ 1

/-- The step from `s` to `t` is a Timeout in RD_POLL_RX (R190, R193). -/
def readTimesOut (s t : State) : Bool :=
  decide (s.phase = .rdPollRx) && decide (t.phase = .timeout)

/-- How many Timeouts in RD_POLL_RX the run of the moves from `s` has. -/
def readTimeouts : List Move → State → Nat
  | [], _ => 0
  | m :: ms, s =>
    match step (s.offer m) with
    | .next t => (if readTimesOut s t then 1 else 0) + readTimeouts ms t
    | .fault _ | .refused _ => 0

/-! ### The bus period and the consistent configuration -/

/-- The bus period P in input-clock cycles (R140); `none` where SPEED selects no mode. -/
def busPeriod (s : State) : Option Nat :=
  if s.regs.con.extractLsb' 1 2 = 1#2 then
    some ((s.regs.ssHcnt.extractLsb' 0 16).toNat + (s.regs.ssLcnt.extractLsb' 0 16).toNat)
  else if s.regs.con.extractLsb' 1 2 = 2#2 then
    some ((s.regs.fsHcnt.extractLsb' 0 16).toNat + (s.regs.fsLcnt.extractLsb' 0 16).toNat)
  else none

/-- R157, the configuration consistency predicate; `F_IN / P ≤ f` is `F_IN ≤ f * P`. -/
def ConfigConsistent (s : State) : Prop :=
  ∃ c p, s.cfg = some c ∧ (BitVec.setWidth 32 (s.regs.con.extractLsb' 1 2) = c.speed.code) ∧
    s.regs.ssHcnt.extractLsb' 0 16 = c.ssH ∧ s.regs.ssLcnt.extractLsb' 0 16 = c.ssL ∧
    s.regs.fsHcnt.extractLsb' 0 16 = c.fsH ∧ s.regs.fsLcnt.extractLsb' 0 16 = c.fsL ∧
    busPeriod s = some p ∧ s.params.fIn ≤ c.fTarget * p

/-- The configuration is one that `cfg_of` gives for a frequency that is accepted (R146). -/
def Derived (p : Params) (c : BusConfig) : Prop :=
  freqOk p c.fTarget = true ∧ c = cfgOf p c.fTarget

/-- The registers programmed by the CFG steps before the phase `p` hold the values of `c` (R147 to R154). -/
def ProgrammedUpTo (p : Phase) (c : BusConfig) (g : Regs) : Prop :=
  let ssH := g.ssHcnt = countValue c.ssH
  let ssL := g.ssLcnt = countValue c.ssL
  let fsH := g.fsHcnt = countValue c.fsH
  let fsL := g.fsLcnt = countValue c.fsL
  let con := g.con = conValue c.speed
  match p with
  | .cfgSsLcnt => ssH
  | .cfgFsHcnt => ssH ∧ ssL
  | .cfgFsLcnt => ssH ∧ ssL ∧ fsH
  | .cfgCon => ssH ∧ ssL ∧ fsH ∧ fsL
  | .cfgMask => ssH ∧ ssL ∧ fsH ∧ fsL ∧ con
  | .cfgEnable => ssH ∧ ssL ∧ fsH ∧ fsL ∧ con ∧ g.intrMask = 0#32
  | _ => True

/-- What the block's own agents keep of the configuration: both records come from accepted frequencies, the registers a
reconfiguration has programmed hold the new record's values, and outside a reconfiguration, once INIT has completed,
every register holds the current record's (R146, R157). -/
def ConfigInvariant (s : State) : Prop :=
  (∀ c, s.cfg = some c → Derived s.params c) ∧ (∀ c, s.ncfg = some c → Derived s.params c) ∧
    (s.phase.reprogramming = true → ∃ c, s.ncfg = some c ∧ ProgrammedUpTo s.phase c s.regs) ∧
    (s.initialized = true → s.phase.reprogramming = false →
      ∃ c, s.cfg = some c ∧ ProgrammedUpTo .cfgEnable c s.regs)

/-! ### The register trace of a transfer -/

/-- The event of a grant (R52). -/
def Event.isGrant : Event → Bool
  | .grant _ _ => true
  | .regRead _ _ | .regWrite _ _ | .release _ _ | .wStart _ | .wTx _ _ | .wRx _ _ | .wStop | .wAbort | .flush => false

/-- The events since the last grant, oldest first (R227). -/
def sinceGrant (h : List Event) : List Event :=
  (h.reverse.takeWhile fun e => !e.isGrant).reverse

/-- The values written at an offset, in order. -/
def writesAt (off : Nat) (es : List Event) : List Word :=
  es.filterMap fun e =>
    match e with
    | .regWrite o v => if o = off then some v else none
    | _ => none

/-- The values read at an offset, in order. -/
def readsAt (off : Nat) (es : List Event) : List Word :=
  es.filterMap fun e =>
    match e with
    | .regRead o v => if o = off then some v else none
    | _ => none

/-- No register access since the grant (R194). -/
def NoAccess (es : List Event) : Prop :=
  ∀ e ∈ es, (∀ off v, e ≠ .regRead off v) ∧ ∀ off v, e ≠ .regWrite off v

/-- An access that an EXECUTE may make: a write of TAR or DATA_CMD, or a read of DATA_CMD or STATUS (R200, R203). -/
def Event.transferAccess : Event → Bool
  | .regWrite off _ => decide (off = 0x04) || decide (off = 0x10)
  | .regRead off _ => decide (off = 0x10) || decide (off = 0x70)
  | .grant _ _ | .release _ _ | .wStart _ | .wTx _ _ | .wRx _ _ | .wStop | .wAbort | .flush => true

/-- The TAR writes, the DATA_CMD writes and the bytes popped by DATA_CMD reads since the grant, in which every other
access is a STATUS read (R200, R203). -/
def Traffic (h : List Event) (tar dataWrites : List Word) (popped : List Byte) : Prop :=
  (∀ e ∈ sinceGrant h, e.transferAccess = true) ∧ writesAt 0x04 (sinceGrant h) = tar ∧ writesAt 0x10 (sinceGrant h) = dataWrites ∧
    (readsAt 0x10 (sinceGrant h)).map receivedByte = popped

/-- The DATA_CMD values of a transfer's write bytes and then `k` read tokens (R201). -/
def pushes (wdata : List Byte) (k : Nat) : List Word :=
  wdata.map writeTokenValue ++ List.replicate k readTokenValue

/-- The traffic of an EXECUTE that stands at byte `idx` of the phase `p`, with the bytes `got` read (R197, R201). -/
def TrafficAt (p : Phase) (idx : Nat) (got : List Byte) (addr : Nat) (tenBit : Bool) (wdata : List Byte)
    (h : List Event) : Prop :=
  match p with
  | .validate | .busWait | .addressSet => got = [] ∧ Traffic h [] [] []
  | .wrPoll | .wrPush => got = [] ∧ Traffic h [tarValue addr tenBit] (pushes (wdata.take idx) 0) []
  | .rdPollTx | .rdPush => got.length = idx ∧ Traffic h [tarValue addr tenBit] (pushes wdata idx) got
  | .rdPollRx | .rdPop => got.length = idx ∧ Traffic h [tarValue addr tenBit] (pushes wdata (idx + 1)) got
  | _ => True

/-- The trace of the EXECUTE being served (R194, R197, R198, R200, R201, R203): in its phases as `TrafficAt` says; at DONE
one TAR write, every write byte and `rlen` read tokens pushed in order, and the result's bytes the `rlen` bytes popped
in order; at TIMEOUT as it was in the phase the info names; at ABORT no access. -/
def TransferTrace (s : State) : Prop :=
  ∀ addr tenBit wdata rlen, s.req = some (.execute addr tenBit wdata rlen) →
    match s.phase with
    | .done => s.rbuf.length = rlen ∧ s.result = some (.ok s.rbuf) ∧
        Traffic s.hist [tarValue addr tenBit] (pushes wdata rlen) s.rbuf
    | .timeout => ∃ info, s.result = some (.err .timeout (some info)) ∧ info.bytesRead = s.rbuf ∧
        TrafficAt info.phase info.idx s.rbuf addr tenBit wdata s.hist
    | .abort => NoAccess (sinceGrant s.hist)
    | .validate => NoAccess (sinceGrant s.hist)
    | p => TrafficAt p s.idx s.rbuf addr tenBit wdata s.hist

/-! ### Infinite runs, and what a claim may assume of the wire agent (R170) -/

/-- A run without end: the moves `μ` take each state of `σ` to the next (R70). -/
def IsRun (σ : Nat → State) (μ : Nat → Move) : Prop :=
  ∀ n, step ((σ n).offer (μ n)) = .next (σ (n + 1))

/-- The wire agent has this step: the condition of its rule (R163 to R167, R169). -/
def WireMoveEnabled (m : Move) (s : State) : Prop :=
  s.wireEnabled = true ∧
    match m with
    | .wTake => s.wire.inflight = none ∧ s.txFifo ≠ []
    | .wComplete => ∃ tok, s.wire.inflight = some tok ∧ (tok.cmd = true → s.rxFifo.length < s.params.rxDepth)
    | .wEnd => s.wire.busBusy = true ∧ s.wire.inflight = none ∧ s.txFifo = []
    | .wAbort => s.params.mayAbort = true ∧ (s.wire.inflight ≠ none ∨ s.txFifo ≠ [])
    | .access _ | .engine | .grant _ | .release | .issue _ _ | .collect _ | .helper _ _ _ => False

/-- R170: "W's steps are weakly fair: a W step that stays enabled is eventually taken". A premise for claims, never a
condition of a step. -/
def WeaklyFair (σ : Nat → State) (μ : Nat → Move) : Prop :=
  ∀ m n, (∀ k, n ≤ k → WireMoveEnabled m (σ k)) → ∃ k, n ≤ k ∧ μ k = m

/-- The move is a poll step: the engine's, in a phase that polls (R181). -/
def isPollStep (m : Move) (s : State) : Bool :=
  decide (m = .engine) && (s.phase.pollBound s.params).isSome

/-- How many of the `k` moves from the `n`-th on are poll steps. -/
def pollSteps (σ : Nat → State) (μ : Nat → Move) (n k : Nat) : Nat :=
  ((List.range k).filter fun j => isPollStep (μ (n + j)) (σ (n + j))).length

/-- R170 with W_BOUND = `b`: "every enabled W step is taken before the engine makes `W_BOUND` further poll steps". While
one stays enabled and is not taken, the engine makes fewer than `b`. -/
def WithinWireBound (b : Nat) (σ : Nat → State) (μ : Nat → Move) : Prop :=
  ∀ m n k, (∀ j, j ≤ k → WireMoveEnabled m (σ (n + j))) → (∀ j, j < k → μ (n + j) ≠ m) → pollSteps σ μ n k < b

/-- The run meets the parameter W_BOUND of its controller, where it has one (R1, R170): a premise for claims. -/
def MeetsWireBound (σ : Nat → State) (μ : Nat → Move) : Prop :=
  ∀ b, (σ 0).params.wBound = some b → WithinWireBound b σ μ

/-! ### The premises of the round-trip laws (R238) -/

/-- A write of TAR. -/
def Event.isTarWrite : Event → Bool
  | .regWrite off _ => decide (off = 0x04)
  | .regRead _ _ | .grant _ _ | .release _ _ | .wStart _ | .wTx _ _ | .wRx _ _ | .wStop | .wAbort | .flush => false

/-- The events since the last TAR write, oldest first: everything the tokens of the transfer that made it have caused so
far (R184, R202). -/
def sinceTar (h : List Event) : List Event :=
  (h.reverse.takeWhile fun e => !e.isTarWrite).reverse

/-- The events up to the last TAR write, it included. -/
def upToTar (h : List Event) : List Event :=
  h.take (h.length - (sinceTar h).length)

/-- The index and the byte of every store that the events make into the fake peripheral at `A`, from its state `p`. -/
def Fake.stores (A : BitVec 10) : Fake → List Event → List (Byte × Byte)
  | _, [] => []
  | p, .wTx a b :: es =>
    (if a = A ∧ p.fresh = false then [(p.ptr, b)] else []) ++ Fake.stores A (p.on A (.wTx a b)) es
  | p, e :: es => Fake.stores A (p.on A e) es

/-- The store is into one of the `n` registers from `reg` on; the index wraps at 256. -/
def inBlock (reg : Byte) (n : Nat) (store : Byte × Byte) : Bool :=
  decide ((store.1 - reg).toNat < n)

/-- The premises of R238, for a block of `n` registers from `reg` on of the peripheral at `A`. A run of the block's own
agents goes from `s1`, where nothing is queued, in flight or left unread, through `s2` to `s3`. Nothing is aborted, the
oracle is the fake peripheral, and no request times out. From the last TAR write before `s2` on, the tokens of that
transfer run in one bus transaction (a read's may run in several, which keep the index), and no more than `n` bytes are
stored into the block, which is what the transfer itself stores. -/
structure RoundTripPremises (A : BitVec 7) (contents : List Byte) (reg : Byte) (n : Nat) (s1 s2 s3 : State) :
    Prop where
  invariant : RunInvariant s1
  idle : s1.phase = .idle
  nothingStale : SerialIdle s1
  noAbort : s1.params.mayAbort = false
  fake : s1.params.oracle = .fake (BitVec.setWidth 10 A) contents
  first : ∃ ms, (∀ m ∈ ms, m.own = true) ∧ runMoves ms s1 = .next s2
  second : ∃ ms, (∀ m ∈ ms, m.own = true) ∧ runMoves ms s2 = .next s3
  noTimeout : ∀ r info, Event.release r (.err .timeout info) ∉ s3.hist.drop s1.hist.length
  oneTransaction :
    ((sinceTar s2.hist ++ s3.hist.drop s2.hist.length).takeWhile fun e => !e.isTarWrite).count
      (.wStart (BitVec.setWidth 10 A)) ≤ 1
  noOtherStore :
    ((Fake.stores (BitVec.setWidth 10 A)
      (Fake.after (BitVec.setWidth 10 A) (fun i => contents.getD i.toNat 0) (upToTar s2.hist))
      (sinceTar s2.hist ++ s3.hist.drop s2.hist.length)).filter (inBlock reg n)).length ≤ n

end Sys2Proof.Machine
end

