-- ==== Sys2Proof/Certificates/Slice0/Obligations.lean ====
section
/-! DEFINITION. The statements for the provers, each a rule of the spec (or, where it says so, derived from rules) about
`exec`, `step`, the decoder or an operation of the model. Every result statement gives the whole next state, so it is
its own frame: what the equation does not change is unchanged. Three things in them are the model's form of what the spec
says: a draw is `State.draw`, free at each use, and a read counts it (log entry 2); "return v" is the field `rdata`, and what
a call returns is `delivered` (log entry 16); the next agent's step is the first move of `sched` (log entry 4). -/

open Sys2Proof Sys2Proof.Machine

/-! ### Reads of the register window -/

/-- A read of a stored field is the REG word `word`, and it answers: the defined bits of `v` are the stored ones, every
other bit is the next draw, the read is recorded and `v` returned, and nothing else changes. -/
def ReadsStored (i : Instr) (word : BitVec 13) (off : Nat) (defined : Word) (stored : State → Word) : Prop :=
  (∀ x, decode (.reg word x) = .ok i) ∧ ∀ s : State, s.faults = [] → s.mapped = true →
    ∃ v : Word, exec i s = .next { s with
        rdata := v, drawCount := s.drawCount + 1, hist := s.hist ++ [.regRead off v] } ∧
      v &&& defined = stored s &&& defined ∧ v &&& ~~~defined = s.draw &&& ~~~defined

/-- R100, R102, R104, R108, R110, R112, R114, R117, R120, R122, R125. -/
def Obligations.StorageRegisterReads : Prop :=
  ReadsStored .rdCon 0x0000#13 0x00 0x7F#32 (fun s => s.regs.con) ∧
    ReadsStored .rdTar 0x0004#13 0x04 0x13FF#32 (fun s => s.regs.tar) ∧
    ReadsStored .rdSar 0x0008#13 0x08 0x3FF#32 (fun s => s.regs.sar) ∧
    ReadsStored .rdSsHcnt 0x0014#13 0x14 0xFFFF#32 (fun s => s.regs.ssHcnt) ∧
    ReadsStored .rdSsLcnt 0x0018#13 0x18 0xFFFF#32 (fun s => s.regs.ssLcnt) ∧
    ReadsStored .rdFsHcnt 0x001C#13 0x1C 0xFFFF#32 (fun s => s.regs.fsHcnt) ∧
    ReadsStored .rdFsLcnt 0x0020#13 0x20 0xFFFF#32 (fun s => s.regs.fsLcnt) ∧
    ReadsStored .rdIntrMask 0x0030#13 0x30 0x1F#32 (fun s => s.regs.intrMask) ∧
    ReadsStored .rdRxTl 0x0038#13 0x38 0xFF#32 (fun s => s.regs.rxTl) ∧
    ReadsStored .rdTxTl 0x003C#13 0x3C 0xFF#32 (fun s => s.regs.txTl) ∧
    ReadsStored .rdEnable 0x006C#13 0x6C 1#32 (fun s => s.regs.enable)

/-- R127, with R33 and R51: the three defined bits of STATUS; R128, R129: the FIFO levels. -/
def Obligations.StatusAndLevelReads : Prop :=
  (∀ x, decode (.reg 0x0070#13 x) = .ok .rdStatus) ∧
  (∀ x, decode (.reg 0x0074#13 x) = .ok .rdTxflr) ∧
  (∀ x, decode (.reg 0x0078#13 x) = .ok .rdRxflr) ∧
  ∀ s : State, s.faults = [] → s.mapped = true →
    (∃ v : Word, exec .rdStatus s = .next { s with
        rdata := v, drawCount := s.drawCount + 1, hist := s.hist ++ [.regRead 0x70 v] } ∧
      (v.getLsbD 0 = true ↔ s.txFifo.length > 0 ∨ s.wire.inflight ≠ none ∨ s.wire.busBusy = true) ∧
      (v.getLsbD 1 = true ↔ s.txFifo.length < s.params.txDepth) ∧ (v.getLsbD 3 = true ↔ s.rxFifo.length > 0) ∧
      v.getLsbD 2 = s.draw.getLsbD 2 ∧
      v.extractLsb' 4 28 = s.draw.extractLsb' 4 28) ∧
    (∃ v : Word, exec .rdTxflr s = .next { s with
        rdata := v, drawCount := s.drawCount + 1, hist := s.hist ++ [.regRead 0x74 v] } ∧
      v.extractLsb' 0 16 = BitVec.ofNat 16 s.txFifo.length ∧
      v.extractLsb' 16 16 = s.draw.extractLsb' 16 16) ∧
    (∃ v : Word, exec .rdRxflr s = .next { s with
        rdata := v, drawCount := s.drawCount + 1, hist := s.hist ++ [.regRead 0x78 v] } ∧
      v.extractLsb' 0 16 = BitVec.ofNat 16 s.rxFifo.length ∧
      v.extractLsb' 16 16 = s.draw.extractLsb' 16 16)

/-- The five interrupt bits of R29, tested one by one in a value. -/
def RawBitsOf (s : State) (v : Word) : Prop :=
  (v.getLsbD 0 = true ↔ s.sticky.rxUnder = true) ∧ (v.getLsbD 1 = true ↔ s.sticky.rxOver = true) ∧
    (v.getLsbD 2 = true ↔ s.rxFifo.length ≥ (s.regs.rxTl.extractLsb' 0 8).toNat + 1) ∧
    (v.getLsbD 3 = true ↔ s.sticky.txOver = true) ∧
    (v.getLsbD 4 = true ↔ s.txFifo.length ≤ (s.regs.txTl.extractLsb' 0 8).toNat)

/-- R116, R119, with the bits of R29: RAW_INTR_STAT reads the five sources, INTR_STAT reads them masked. -/
def Obligations.InterruptStatusReads : Prop :=
  (∀ x, decode (.reg 0x0034#13 x) = .ok .rdRawIntrStat) ∧
  (∀ x, decode (.reg 0x002C#13 x) = .ok .rdIntrStat) ∧
  ∀ s : State, s.faults = [] → s.mapped = true →
    ∃ raw masked : Word,
      exec .rdRawIntrStat s = .next { s with
        rdata := raw, drawCount := s.drawCount + 1, hist := s.hist ++ [.regRead 0x34 raw] } ∧
      exec .rdIntrStat s = .next { s with
        rdata := masked, drawCount := s.drawCount + 1, hist := s.hist ++ [.regRead 0x2C masked] } ∧
      RawBitsOf s raw ∧
      masked.extractLsb' 0 5 = raw.extractLsb' 0 5 &&& s.regs.intrMask.extractLsb' 0 5 ∧
      raw.extractLsb' 5 27 = s.draw.extractLsb' 5 27 ∧
      masked.extractLsb' 5 27 = s.draw.extractLsb' 5 27

/-- R106: a DATA_CMD read pops the oldest byte; with the RX FIFO empty it sets RX_UNDER and every bit is a draw; while
disabled it is a fault. -/
def Obligations.DataCmdRead : Prop :=
  (∀ x, decode (.reg 0x0010#13 x) = .ok .rdDataCmd) ∧
  ∀ s : State, s.faults = [] → s.mapped = true →
    (∀ b rest, s.regs.enable.getLsbD 0 = true → s.rxFifo = b :: rest →
      ∃ v : Word, exec .rdDataCmd s = .next { s with
          rxFifo := rest, rdata := v, drawCount := s.drawCount + 1, hist := s.hist ++ [.regRead 0x10 v] } ∧
        v.extractLsb' 0 8 = b ∧ v.extractLsb' 8 24 = s.draw.extractLsb' 8 24) ∧
    (s.regs.enable.getLsbD 0 = true → s.rxFifo = [] →
      exec .rdDataCmd s = .next { s with
        sticky := { s.sticky with rxUnder := true },
        rdata := s.draw,
        drawCount := s.drawCount + 1,
        hist := s.hist ++ [.regRead 0x10 (s.draw)] }) ∧
    (s.regs.enable.getLsbD 0 = false → exec .rdDataCmd s = .next { s with faults := [.dataCmdWhileDisabled] })

/-- R124: a CLR_INTR read clears the three sticky bits and returns a draw. -/
def Obligations.ClearInterruptRead : Prop :=
  (∀ x, decode (.reg 0x0040#13 x) = .ok .rdClrIntr) ∧
  ∀ s : State, s.faults = [] → s.mapped = true →
    exec .rdClrIntr s = .next { s with
      sticky := { rxUnder := false, rxOver := false, txOver := false },
      rdata := s.draw,
      drawCount := s.drawCount + 1,
      hist := s.hist ++ [.regRead 0x40 (s.draw)] }

/-! ### Writes of the register window -/

/-- R101: the control register, with its two faults in the order its pseudocode tests them. -/
def Obligations.ControlWrite : Prop :=
  (∀ x, decode (.reg 0x1000#13 x) = .ok (.wrCon x)) ∧
  ∀ (v : Word) (s : State), s.faults = [] → s.mapped = true → v &&& 0xFFFFFF80#32 = 0#32 →
    (s.regs.enable.getLsbD 0 = true → exec (.wrCon v) s = .next { s with faults := [.conWhileEnabled] }) ∧
    (s.regs.enable.getLsbD 0 = false → (v.extractLsb' 1 2 = 0#2 ∨ v.extractLsb' 1 2 = 3#2) →
      exec (.wrCon v) s = .next { s with faults := [.badSpeed] }) ∧
    (s.regs.enable.getLsbD 0 = false → (v.extractLsb' 1 2 = 1#2 ∨ v.extractLsb' 1 2 = 2#2) →
      exec (.wrCon v) s = .next { s with
        regs := { s.regs with con := v }, hist := s.hist ++ [.regWrite 0x00 v] })

/-- R103: the target-address register, enabled or not; a fault while the bus is active. -/
def Obligations.TargetWrite : Prop :=
  (∀ x, decode (.reg 0x1004#13 x) = .ok (.wrTar x)) ∧
  ∀ (v : Word) (s : State), s.faults = [] → s.mapped = true → v &&& 0xFFFFEC00#32 = 0#32 →
    ((s.txFifo ≠ [] ∨ s.wire.inflight ≠ none ∨ s.wire.busBusy = true) →
      exec (.wrTar v) s = .next { s with faults := [.tarWhileActive] }) ∧
    (s.txFifo = [] → s.wire.inflight = none → s.wire.busBusy = false →
      exec (.wrTar v) s = .next { s with
        regs := { s.regs with tar := v }, hist := s.hist ++ [.regWrite 0x04 v] })

/-- R105: the slave-address register is storage; a fault while enabled. -/
def Obligations.SlaveAddressWrite : Prop :=
  (∀ x, decode (.reg 0x1008#13 x) = .ok (.wrSar x)) ∧
  ∀ (v : Word) (s : State), s.faults = [] → s.mapped = true → v &&& 0xFFFFFC00#32 = 0#32 →
    (s.regs.enable.getLsbD 0 = true → exec (.wrSar v) s = .next { s with faults := [.sarWhileEnabled] }) ∧
    (s.regs.enable.getLsbD 0 = false →
      exec (.wrSar v) s = .next { s with
        regs := { s.regs with sar := v }, hist := s.hist ++ [.regWrite 0x08 v] })

/-- R107: a DATA_CMD write pushes the token `(v[8], v[7:0])`; with the TX FIFO full the token is dropped and TX_OVER
set; while disabled it is a fault. -/
def Obligations.DataCmdWrite : Prop :=
  (∀ x, decode (.reg 0x1010#13 x) = .ok (.wrDataCmd x)) ∧
  ∀ (v : Word) (s : State), s.faults = [] → s.mapped = true → v &&& 0xFFFFFE00#32 = 0#32 →
    (s.regs.enable.getLsbD 0 = true → s.txFifo.length < s.params.txDepth →
      exec (.wrDataCmd v) s = .next { s with
        txFifo := s.txFifo ++ [{ cmd := v.getLsbD 8, dat := v.extractLsb' 0 8 }],
        hist := s.hist ++ [.regWrite 0x10 v] }) ∧
    (s.regs.enable.getLsbD 0 = true → s.txFifo.length ≥ s.params.txDepth →
      exec (.wrDataCmd v) s = .next { s with
        sticky := { s.sticky with txOver := true }, hist := s.hist ++ [.regWrite 0x10 v] }) ∧
    (s.regs.enable.getLsbD 0 = false →
      exec (.wrDataCmd v) s = .next { s with faults := [.dataCmdWhileDisabled] })

/-- A count register's write is the REG word `word`: stored while disabled and idle, else TIMING_WHILE_ENABLED. -/
def CountWrite (i : Word → Instr) (word : BitVec 13) (off : Nat) (put : Regs → Word → Regs) : Prop :=
  (∀ x, decode (.reg word x) = .ok (i x)) ∧
  ∀ (v : Word) (s : State), s.faults = [] → s.mapped = true → v &&& 0xFFFF0000#32 = 0#32 →
    ((s.regs.enable.getLsbD 0 = true ∨ s.txFifo ≠ [] ∨ s.wire.inflight ≠ none ∨ s.wire.busBusy = true) →
      exec (i v) s = .next { s with faults := [.timingWhileEnabled] }) ∧
    (s.regs.enable.getLsbD 0 = false → s.txFifo = [] → s.wire.inflight = none → s.wire.busBusy = false →
      exec (i v) s = .next { s with regs := put s.regs v, hist := s.hist ++ [.regWrite off v] })

/-- R109, R111, R113, R115: the four count registers. -/
def Obligations.ClockCountWrites : Prop :=
  CountWrite .wrSsHcnt 0x1014#13 0x14 (fun g v => { g with ssHcnt := v }) ∧
    CountWrite .wrSsLcnt 0x1018#13 0x18 (fun g v => { g with ssLcnt := v }) ∧
    CountWrite .wrFsHcnt 0x101C#13 0x1C (fun g v => { g with fsHcnt := v }) ∧
    CountWrite .wrFsLcnt 0x1020#13 0x20 (fun g v => { g with fsLcnt := v })

/-- R118, R121, R123: the interrupt mask and the thresholds are stored, enabled or not. -/
def Obligations.MaskAndThresholdWrites : Prop :=
  (∀ x, decode (.reg 0x1030#13 x) = .ok (.wrIntrMask x)) ∧
  (∀ x, decode (.reg 0x1038#13 x) = .ok (.wrRxTl x)) ∧
  (∀ x, decode (.reg 0x103C#13 x) = .ok (.wrTxTl x)) ∧
  ∀ (v : Word) (s : State), s.faults = [] → s.mapped = true →
    (v &&& 0xFFFFFFE0#32 = 0#32 → exec (.wrIntrMask v) s = .next { s with
      regs := { s.regs with intrMask := v }, hist := s.hist ++ [.regWrite 0x30 v] }) ∧
    (v &&& 0xFFFFFF00#32 = 0#32 → exec (.wrRxTl v) s = .next { s with
      regs := { s.regs with rxTl := v }, hist := s.hist ++ [.regWrite 0x38 v] }) ∧
    (v &&& 0xFFFFFF00#32 = 0#32 → exec (.wrTxTl v) s = .next { s with
      regs := { s.regs with txTl := v }, hist := s.hist ++ [.regWrite 0x3C v] })

/-- R126: enabling stores the bit; disabling an idle bus, or a disabled controller again, empties both FIFOs and records
Flush first; disabling an active bus is a fault. -/
def Obligations.EnableWrite : Prop :=
  (∀ x, decode (.reg 0x106C#13 x) = .ok (.wrEnable x)) ∧
  ∀ s : State, s.faults = [] → s.mapped = true →
    exec (.wrEnable 1#32) s = .next { s with
      regs := { s.regs with enable := 1#32 }, hist := s.hist ++ [.regWrite 0x6C 1#32] } ∧
    (s.regs.enable.getLsbD 0 = true → (s.txFifo ≠ [] ∨ s.wire.inflight ≠ none ∨ s.wire.busBusy = true) →
      exec (.wrEnable 0#32) s = .next { s with faults := [.disableWhileActive] }) ∧
    ((s.regs.enable.getLsbD 0 = false ∨ (s.txFifo = [] ∧ s.wire.inflight = none ∧ s.wire.busBusy = false)) →
      exec (.wrEnable 0#32) s = .next { s with
        regs := { s.regs with enable := 0#32 },
        txFifo := [],
        rxFifo := [],
        hist := s.hist ++ [.flush, .regWrite 0x6C 0#32] })

/-- The write instructions with the reserved bits of their registers (R22 to R26, R28, R30, R32). -/
def reservedBitsOf : List ((Word → Instr) × Word) :=
  [(.wrCon, 0xFFFFFF80#32), (.wrTar, 0xFFFFEC00#32), (.wrSar, 0xFFFFFC00#32), (.wrDataCmd, 0xFFFFFE00#32),
    (.wrSsHcnt, 0xFFFF0000#32), (.wrSsLcnt, 0xFFFF0000#32), (.wrFsHcnt, 0xFFFF0000#32), (.wrFsLcnt, 0xFFFF0000#32),
    (.wrIntrMask, 0xFFFFFFE0#32), (.wrRxTl, 0xFFFFFF00#32), (.wrTxTl, 0xFFFFFF00#32), (.wrEnable, 0xFFFFFFFE#32)]

/-- R64: a write with a 1 in a reserved bit is the fault RESERVED_BITS and nothing is written, whatever the register's
own conditions (R68); a write with none never raises it. -/
def Obligations.ReservedBitsFault : Prop :=
  ∀ p ∈ reservedBitsOf, ∀ (v : Word) (s : State), s.faults = [] → s.mapped = true →
    (v &&& p.2 ≠ 0#32 → exec (p.1 v) s = .next { s with faults := [.reservedBits] }) ∧
    (v &&& p.2 = 0#32 → ∀ t, exec (p.1 v) s = .next t → .reservedBits ∉ t.faults)

/-- The register accesses among the instructions. -/
def isAccess : Instr → Bool
  | .wtok _ | .rtok _ | .init _ | .setSpeed _ | .execute _ _ _ _ => false
  | .rdCon | .rdTar | .rdSar | .rdDataCmd | .rdSsHcnt | .rdSsLcnt | .rdFsHcnt | .rdFsLcnt | .rdIntrStat | .rdIntrMask
  | .rdRawIntrStat | .rdRxTl | .rdTxTl | .rdClrIntr | .rdEnable | .rdStatus | .rdTxflr | .rdRxflr | .wrCon _ | .wrTar _
  | .wrSar _ | .wrDataCmd _ | .wrSsHcnt _ | .wrSsLcnt _ | .wrFsHcnt _ | .wrFsLcnt _ | .wrIntrMask _ | .wrRxTl _
  | .wrTxTl _ | .wrEnable _ => true

/-- R65 with R68: an access while the window is not mapped is the fault UNMAPPED, before every other check: every register
access instruction, and every access another driver makes, of any width at any offset. -/
def Obligations.UnmappedAccessFault : Prop :=
  (∀ (i : Instr) (s : State), isAccess i = true → s.faults = [] → s.mapped = false →
    exec i s = .next { s with faults := [.unmapped] }) ∧
  (∀ (a : BusAccess) (s : State) (rest : List Move), s.faults = [] → s.mapped = false → s.sched = .access a :: rest →
    step s = .next { s with sched := rest, faults := [.unmapped] })

/-- R245, R244: the instruction of a REG word answers a next state. Either one reason is added and nothing else changes,
the history included; or exactly one access of the register at the word's offset is recorded, last, with the value written
or returned. Then a write stores its value in that register and in no other, and a read changes none; only a DATA_CMD
access and an ENABLE write touch the FIFOs, only DATA_CMD and CLR_INTR the sticky bits, and nothing else of the controller
changes. -/
def Obligations.AccessOutcomes : Prop :=
  ∀ (i : Instr) (word : BitVec 13) (v : Word) (s : State), encode i = .reg word v → s.faults = [] →
    ∃ (r : Reg) (t : State), r.offset = (word.extractLsb' 0 12).toNat ∧ exec i s = .next t ∧
      ((∃ x, t = { s with faults := [x] }) ∨
        t = { s with
            regs := t.regs, txFifo := t.txFifo, rxFifo := t.rxFifo, sticky := t.sticky, hist := t.hist,
            rdata := t.rdata, drawCount := t.drawCount } ∧
          (r ≠ .dataCmd → r ≠ .clrIntr → t.sticky = s.sticky) ∧
          if word.getLsbD 12 then
            t.hist = s.hist ++ (if r = .enable ∧ v.getLsbD 0 = false then [.flush] else []) ++
                [.regWrite r.offset v] ∧
              t.regs = s.regs.set r v ∧ t.rdata = s.rdata ∧ t.drawCount = s.drawCount ∧
              (r ≠ .dataCmd → r ≠ .enable → t.txFifo = s.txFifo) ∧ (r ≠ .enable → t.rxFifo = s.rxFifo)
          else
            t.hist = s.hist ++ [.regRead r.offset t.rdata] ∧ t.regs = s.regs ∧ t.drawCount = s.drawCount + 1 ∧
              t.txFifo = s.txFifo ∧ (r ≠ .dataCmd → t.rxFifo = s.rxFifo))

/-! ### Accesses with no legal encoding, and the faulted controller -/

/-- R61, R62, R63, R90 with R68: an access of another width, at an offset that is no multiple of 4 or holds no register,
is BAD_ACCESS; a write to a read-only register is RO_WRITE, whatever its value. -/
def Obligations.IllegalAccessFaults : Prop :=
  ∀ (a : BusAccess) (s : State) (rest : List Move), s.faults = [] → s.mapped = true → s.sched = .access a :: rest →
    ((a.width ≠ 32 ∨ a.off % 4 ≠ 0 ∨ a.off ∉ [0x00, 0x04, 0x08, 0x10, 0x14, 0x18, 0x1C, 0x20, 0x2C, 0x30, 0x34, 0x38,
        0x3C, 0x40, 0x6C, 0x70, 0x74, 0x78]) →
      step s = .next { s with sched := rest, faults := [.badAccess] }) ∧
    (a.width = 32 → a.we = true → a.off ∈ [0x2C, 0x34, 0x40, 0x70, 0x74, 0x78] →
      step s = .next { s with sched := rest, faults := [.roWrite] })

/-- R50, R245, R250: a faulted controller takes no step, whatever agent would move and whatever instruction would run. -/
def Obligations.FaultedControllerStops : Prop :=
  ∀ s : State, s.faults ≠ [] → step s = .fault .controllerFaulted ∧ ∀ i, exec i s = .fault .controllerFaulted

/-! ### The wire agent -/

/-- R165, with R163's enable condition: WTOK is recorded at the target and completed; where it is not enabled the wire
agent has no step and nothing changes. -/
def Obligations.WriteTokenCompletes : Prop :=
  (∀ b : Byte, decode (.token (BitVec.setWidth 32 b)) = .ok (.wtok b)) ∧
  ∀ (b : Byte) (s : State), s.faults = [] →
    (s.regs.enable.getLsbD 0 = true → s.regs.con.getLsbD 0 = true →
      s.wire.inflight = some { cmd := false, dat := b } →
      exec (.wtok b) s = .next { s with
        wire := { s.wire with inflight := none }, hist := s.hist ++ [.wTx s.target b] }) ∧
    ((s.regs.enable.getLsbD 0 = false ∨ s.regs.con.getLsbD 0 = false ∨
        s.wire.inflight ≠ some { cmd := false, dat := b }) →
      exec (.wtok b) s = .next s)

/-- R166, R168, with R163's enable condition: RTOK pushes the oracle's byte for the target, whatever the token's data
field; with the RX FIFO full, or where it is not enabled, the wire agent has no step and nothing changes. -/
def Obligations.ReadTokenCompletes : Prop :=
  (∀ d : Byte, decode (.token (0x100#32 ||| BitVec.setWidth 32 d)) = .ok (.rtok d)) ∧
  ∀ (d : Byte) (s : State), s.faults = [] →
    (s.regs.enable.getLsbD 0 = true → s.regs.con.getLsbD 0 = true →
      s.wire.inflight = some { cmd := true, dat := d } → s.rxFifo.length < s.params.rxDepth →
      exec (.rtok d) s = .next { s with
        rxFifo := s.rxFifo ++ [s.params.oracle.answer s.hist s.target (s.regs.tar.getLsbD 12)],
        wire := { s.wire with inflight := none },
        hist := s.hist ++ [.wRx s.target (s.params.oracle.answer s.hist s.target (s.regs.tar.getLsbD 12))] }) ∧
    ((s.regs.enable.getLsbD 0 = false ∨ s.regs.con.getLsbD 0 = false ∨
        s.wire.inflight ≠ some { cmd := true, dat := d } ∨ s.rxFifo.length ≥ s.params.rxDepth) →
      exec (.rtok d) s = .next s)

/-- R164: a take of the oldest token; it begins a bus transaction exactly when the bus was idle. Where the take is not
enabled nothing but the schedule changes. -/
def Obligations.WireTakesOldestToken : Prop :=
  ∀ (s : State) (rest : List Move), s.faults = [] → s.sched = .wTake :: rest →
    (∀ tok q, s.regs.enable.getLsbD 0 = true → s.regs.con.getLsbD 0 = true → s.wire.inflight = none →
      s.txFifo = tok :: q →
      (s.wire.busBusy = false → step s = .next { s with
        sched := rest, txFifo := q, wire := { inflight := some tok, busBusy := true },
        hist := s.hist ++ [.wStart s.target] }) ∧
      (s.wire.busBusy = true → step s = .next { s with
        sched := rest, txFifo := q, wire := { inflight := some tok, busBusy := true } })) ∧
    ((s.regs.enable.getLsbD 0 = false ∨ s.regs.con.getLsbD 0 = false ∨ s.wire.inflight ≠ none ∨ s.txFifo = []) →
      step s = .next { s with sched := rest })

/-- R167, R169: the bus is released when nothing is queued or in flight; an abort, where W_MAY_ABORT allows one, discards
what is, and leaves the bus as busy as it was. Where they are not enabled nothing but the schedule changes. -/
def Obligations.WireEndsAndAborts : Prop :=
  ∀ (s : State) (rest : List Move), s.faults = [] →
    (s.sched = .wEnd :: rest →
      (s.regs.enable.getLsbD 0 = true → s.regs.con.getLsbD 0 = true → s.wire.busBusy = true →
        s.wire.inflight = none → s.txFifo = [] →
        step s = .next { s with
          sched := rest, wire := { inflight := none, busBusy := false }, hist := s.hist ++ [.wStop] }) ∧
      ((s.regs.enable.getLsbD 0 = false ∨ s.regs.con.getLsbD 0 = false ∨ s.wire.busBusy = false ∨
          s.wire.inflight ≠ none ∨ s.txFifo ≠ []) → step s = .next { s with sched := rest })) ∧
    (s.sched = .wAbort :: rest →
      (s.params.mayAbort = true → s.regs.enable.getLsbD 0 = true → s.regs.con.getLsbD 0 = true →
        (s.wire.inflight ≠ none ∨ s.txFifo ≠ []) →
        step s = .next { s with
          sched := rest, txFifo := [], wire := { inflight := none, busBusy := s.wire.busBusy },
          hist := s.hist ++ [.wAbort] }) ∧
      ((s.params.mayAbort = false ∨ s.regs.enable.getLsbD 0 = false ∨ s.regs.con.getLsbD 0 = false ∨
          (s.wire.inflight = none ∧ s.txFifo = [])) → step s = .next { s with sched := rest }))

/-- R163, R171: the wire agent writes only the FIFOs, its own state and the history, and it has no step at all while
ENABLE[0] or MASTER_MODE is 0; and each of its steps changes the state exactly where its rule enables it (R164 to R167,
R169), the condition that R170's fairness speaks of. -/
def Obligations.WireAgentFrame : Prop :=
  (∀ (m : Move) (s : State), s.faults = [] → m.wire = true →
    (WireMoveEnabled m s ↔ ∃ t, step (s.offer m) = .next t ∧ t ≠ s)) ∧
  ∀ (s t : State) (m : Move) (rest : List Move), s.sched = m :: rest → m.wire = true → step s = .next t →
    t = { s with sched := rest, txFifo := t.txFifo, rxFifo := t.rxFifo, wire := t.wire, hist := t.hist } ∧
    ((s.regs.enable.getLsbD 0 = false ∨ s.regs.con.getLsbD 0 = false) → t = { s with sched := rest })

/-! ### INIT and SET_SPEED -/

/-- R145: INIT's validation, AlreadyInitialized first, then the frequency. -/
def Obligations.InitValidation : Prop :=
  ∀ (f : Nat) (s : State), s.faults = [] → s.phase = .validate → s.req = some (.init f) →
    (s.initialized = true → exec (.init f) s = .next { s with
      result := some (.err .alreadyInitialized none), phase := .abort }) ∧
    (s.initialized = false → freqOk s.params f = false → exec (.init f) s = .next { s with
      result := some (.err .invalidArgument none), phase := .abort }) ∧
    (s.initialized = false → freqOk s.params f = true → exec (.init f) s = .next { s with
      ncfg := some (cfgOf s.params f), phase := .cfgDisable })

/-- R155: SET_SPEED's validation, NotInitialized first, then the frequency; then the bus-free wait. -/
def Obligations.SetSpeedValidation : Prop :=
  ∀ (f : Nat) (s : State), s.faults = [] → s.phase = .validate → s.req = some (.setSpeed f) →
    (s.initialized = false → exec (.setSpeed f) s = .next { s with
      result := some (.err .notInitialized none), phase := .abort }) ∧
    (s.initialized = true → freqOk s.params f = false → exec (.setSpeed f) s = .next { s with
      result := some (.err .invalidArgument none), phase := .abort }) ∧
    (s.initialized = true → freqOk s.params f = true → exec (.setSpeed f) s = .next { s with
      ncfg := some (cfgOf s.params f), cnt := 0, phase := .busWait })

/-- The instruction that serves a configuration request. -/
def servesConfig (i : Instr) (s : State) : Prop :=
  ∃ f, (i = .init f ∧ s.req = some (.init f)) ∨ (i = .setSpeed f ∧ s.req = some (.setSpeed f))

/-- R147, R154: the first and the last step of a reconfiguration, of INIT and SET_SPEED alike: the disable, on an idle
bus, flushes the FIFOs; the enable commits the new configuration and ends with Ok([]). -/
def Obligations.ReconfigurationBrackets : Prop :=
  ∀ (i : Instr) (s : State), servesConfig i s → s.faults = [] → s.mapped = true →
    (s.phase = .cfgDisable → s.txFifo = [] → s.wire.inflight = none → s.wire.busBusy = false →
      exec i s = .next { s with
        regs := { s.regs with enable := 0#32 }, txFifo := [], rxFifo := [],
        hist := s.hist ++ [.flush, .regWrite 0x6C 0#32], phase := .cfgSsHcnt }) ∧
    (s.phase = .cfgEnable → exec i s = .next { s with
        regs := { s.regs with enable := 1#32 }, hist := s.hist ++ [.regWrite 0x6C 1#32],
        cfg := s.ncfg, ncfg := none, initialized := true, result := some (.ok []), phase := .done })

/-- R148 to R153: each step between them writes one register with the new configuration's value and goes to the next
phase, with the controller disabled and idle. -/
def Obligations.ReconfigurationWrites : Prop :=
  ∀ (i : Instr) (c : BusConfig) (s : State), servesConfig i s → s.faults = [] → s.mapped = true → s.ncfg = some c →
    s.regs.enable.getLsbD 0 = false → s.txFifo = [] → s.wire.inflight = none → s.wire.busBusy = false →
    (s.phase = .cfgSsHcnt → exec i s = .next { s with
        regs := { s.regs with ssHcnt := BitVec.setWidth 32 c.ssH },
        hist := s.hist ++ [.regWrite 0x14 (BitVec.setWidth 32 c.ssH)], phase := .cfgSsLcnt }) ∧
    (s.phase = .cfgSsLcnt → exec i s = .next { s with
        regs := { s.regs with ssLcnt := BitVec.setWidth 32 c.ssL },
        hist := s.hist ++ [.regWrite 0x18 (BitVec.setWidth 32 c.ssL)], phase := .cfgFsHcnt }) ∧
    (s.phase = .cfgFsHcnt → exec i s = .next { s with
        regs := { s.regs with fsHcnt := BitVec.setWidth 32 c.fsH },
        hist := s.hist ++ [.regWrite 0x1C (BitVec.setWidth 32 c.fsH)], phase := .cfgFsLcnt }) ∧
    (s.phase = .cfgFsLcnt → exec i s = .next { s with
        regs := { s.regs with fsLcnt := BitVec.setWidth 32 c.fsL },
        hist := s.hist ++ [.regWrite 0x20 (BitVec.setWidth 32 c.fsL)], phase := .cfgCon }) ∧
    (s.phase = .cfgCon → exec i s = .next { s with
        regs := { s.regs with con := if c.speed = .standard then 0x63#32 else 0x65#32 },
        hist := s.hist ++ [.regWrite 0x00 (if c.speed = .standard then 0x63#32 else 0x65#32)], phase := .cfgMask }) ∧
    (s.phase = .cfgMask → exec i s = .next { s with
        regs := { s.regs with intrMask := 0#32 }, hist := s.hist ++ [.regWrite 0x30 0#32], phase := .cfgEnable })

/-- Derived from R141 and R142, for every COUNT_FN an instance may have in this model: a valid pair is at least 1 and fits
in 16 bits in each half, and gives a bus no faster than `f`. Of a COUNT_FN other than the default the last holds by the
model's own choice (DESIGN CHOICE, log entry 10): a valid pair that would break R142 gives way to the default's. The
default of R141 adds up to `ceil(F_IN / f)` periods, with at least 53% of them low. -/
def Obligations.CountFunctionProperties : Prop :=
  ∀ (p : Params) (f : Nat), 0 < p.fIn → 0 < f → f ≤ 400000 →
    (countsValid (p.countFn f) = true →
      1 ≤ (p.countFn f).1 ∧ 1 ≤ (p.countFn f).2 ∧ (p.countFn f).1 ≤ 0xFFFF ∧ (p.countFn f).2 ≤ 0xFFFF ∧
        p.fIn ≤ f * ((p.countFn f).1 + (p.countFn f).2)) ∧
    (p.counts = .byDefault →
      (p.countFn f).1 + (p.countFn f).2 = ceilDiv p.fIn f ∧ 100 * (p.countFn f).2 ≥ 53 * ceilDiv p.fIn f)

/-! ### EXECUTE -/

/-- R183 with R88: EXECUTE's validation clears the per-request registers, then checks NotInitialized, then the fields. -/
def Obligations.ExecuteValidation : Prop :=
  ∀ (a : Nat) (ten : Bool) (w : List Byte) (n : Nat) (s : State), s.faults = [] → s.phase = .validate →
    s.req = some (.execute a ten w n) →
    let cleared : State := { s with rbuf := [], idx := 0, cnt := 0 }
    let bad := w.length + n = 0 ∨ (ten = false ∧ a > 0x7F) ∨ (ten = true ∧ a > 0x3FF) ∨
      ∃ m, s.params.maxLen = some m ∧ (w.length > m ∨ n > m)
    (s.initialized = false → exec (.execute a ten w n) s = .next { cleared with
      result := some (.err .notInitialized none), phase := .abort }) ∧
    (s.initialized = true → bad → exec (.execute a ten w n) s = .next { cleared with
      result := some (.err .invalidArgument none), phase := .abort }) ∧
    (s.initialized = true → ¬ bad → exec (.execute a ten w n) s = .next { cleared with phase := .busWait })

/-- One poll step of instruction `i` in state `s` (R181): the STATUS read is made whatever comes of it; if the tested
condition holds the engine goes on to `next`, else it counts, else it times out with the info of R242. The value read has
ACTIVITY, TFNF and RFNE in bits 0, 1 and 3 (R127, R33). -/
def PollStep (i : Instr) (s : State) (bound : Nat) (k : Wait) (holds : Prop) (next : Phase) : Prop :=
  ∃ v : Word, let read : State := { s with
      rdata := v, drawCount := s.drawCount + 1, hist := s.hist ++ [.regRead 0x70 v] }
    (v.getLsbD 0 = true ↔ s.txFifo.length > 0 ∨ s.wire.inflight ≠ none ∨ s.wire.busBusy = true) ∧
    (v.getLsbD 1 = true ↔ s.txFifo.length < s.params.txDepth) ∧ (v.getLsbD 3 = true ↔ s.rxFifo.length > 0) ∧
    (holds → exec i s = .next { read with cnt := 0, phase := next }) ∧
    (¬ holds → s.cnt < bound → exec i s = .next { read with cnt := s.cnt + 1 }) ∧
    (¬ holds → s.cnt ≥ bound → exec i s = .next { read with
      cnt := 0,
      phase := .timeout,
      result := some (.err .timeout (some { wait := k, phase := s.phase, idx := s.idx, bytesRead := s.rbuf })) })

/-- R181, R184, R186, R188, R190: every wait of the engine. -/
def Obligations.PollLoops : Prop :=
  ∀ (a : Nat) (ten : Bool) (w : List Byte) (n f : Nat) (s : State), s.faults = [] → s.mapped = true →
    let idle := s.txFifo = [] ∧ s.wire.inflight = none ∧ s.wire.busBusy = false
    let room := s.txFifo.length < s.params.txDepth
    (s.req = some (.setSpeed f) → s.phase = .busWait →
      PollStep (.setSpeed f) s s.params.nBus .bus idle .cfgDisable) ∧
    (s.req = some (.execute a ten w n) →
      (s.phase = .busWait → PollStep (.execute a ten w n) s s.params.nBus .bus idle .addressSet) ∧
      (s.phase = .wrPoll → PollStep (.execute a ten w n) s s.params.nFifo .tx room .wrPush) ∧
      (s.phase = .rdPollTx → PollStep (.execute a ten w n) s s.params.nFifo .tx room .rdPush) ∧
      (s.phase = .rdPollRx → PollStep (.execute a ten w n) s s.params.nFifo .rx (s.rxFifo ≠ []) .rdPop))

/-- R185 with R84: the one TAR write of a transfer, then the write phase, or the read phase when there is nothing to
write. -/
def Obligations.AddressIsSetOnce : Prop :=
  ∀ (a : Nat) (ten : Bool) (w : List Byte) (n : Nat) (s : State), s.faults = [] → s.mapped = true →
    s.phase = .addressSet → s.req = some (.execute a ten w n) → a ≤ 0x3FF →
    s.txFifo = [] → s.wire.inflight = none → s.wire.busBusy = false →
    let v := BitVec.ofNat 32 (a + (if ten then 0x1000 else 0))
    exec (.execute a ten w n) s = .next { s with
      regs := { s.regs with tar := v }, hist := s.hist ++ [.regWrite 0x04 v], idx := 0,
      phase := if w = [] then .rdPollTx else .wrPoll }

/-- R187 with R195: the push of write byte `idx`, and where the engine goes after it. -/
def Obligations.WriteBytePush : Prop :=
  ∀ (a : Nat) (ten : Bool) (w : List Byte) (n : Nat) (b : Byte) (s : State), s.faults = [] → s.mapped = true →
    s.phase = .wrPush → s.req = some (.execute a ten w n) → w[s.idx]? = some b →
    s.regs.enable.getLsbD 0 = true → s.txFifo.length < s.params.txDepth →
    let pushed : State := { s with
      txFifo := s.txFifo ++ [{ cmd := false, dat := b }],
      hist := s.hist ++ [.regWrite 0x10 (BitVec.setWidth 32 b)] }
    (s.idx + 1 < w.length → exec (.execute a ten w n) s = .next { pushed with
      idx := s.idx + 1, phase := .wrPoll }) ∧
    (s.idx + 1 = w.length → n > 0 → exec (.execute a ten w n) s = .next { pushed with
      idx := 0, phase := .rdPollTx }) ∧
    (s.idx + 1 = w.length → n = 0 → exec (.execute a ten w n) s = .next { pushed with
      idx := s.idx + 1, result := some (.ok []), phase := .done })

/-- R189: the read token of read byte `idx`. -/
def Obligations.ReadTokenPush : Prop :=
  ∀ (a : Nat) (ten : Bool) (w : List Byte) (n : Nat) (s : State), s.faults = [] → s.mapped = true →
    s.phase = .rdPush → s.req = some (.execute a ten w n) → s.regs.enable.getLsbD 0 = true →
    s.txFifo.length < s.params.txDepth →
    exec (.execute a ten w n) s = .next { s with
      txFifo := s.txFifo ++ [{ cmd := true, dat := 0#8 }],
      hist := s.hist ++ [.regWrite 0x10 0x100#32],
      phase := .rdPollRx }

/-- R191: the pop of read byte `idx`, masked to 8 bits, and where the engine goes after it. -/
def Obligations.ReadBytePop : Prop :=
  ∀ (a : Nat) (ten : Bool) (w : List Byte) (n : Nat) (b : Byte) (rest : List Byte) (s : State), s.faults = [] →
    s.mapped = true → s.phase = .rdPop → s.req = some (.execute a ten w n) → s.regs.enable.getLsbD 0 = true →
    s.rxFifo = b :: rest →
    ∃ v : Word, v.extractLsb' 0 8 = b ∧
      let popped : State := { s with
        rxFifo := rest, rdata := v, drawCount := s.drawCount + 1, hist := s.hist ++ [.regRead 0x10 v],
        rbuf := s.rbuf ++ [b], idx := s.idx + 1 }
      (s.idx + 1 < n → exec (.execute a ten w n) s = .next { popped with phase := .rdPollTx }) ∧
      (s.idx + 1 ≥ n → exec (.execute a ten w n) s = .next { popped with
        result := some (.ok (s.rbuf ++ [b])), phase := .done })

/-- R180: the engine has no step in IDLE or in a terminal phase: nothing but the schedule changes. -/
def Obligations.EngineRestsWhenIdleOrDone : Prop :=
  ∀ (s : State) (rest : List Move), s.faults = [] → s.sched = .engine :: rest →
    (s.phase = .idle ∨ s.phase = .done ∨ s.phase = .timeout ∨ s.phase = .abort) →
    step s = .next { s with sched := rest }

/-- R203: an EXECUTE step changes no register but TAR, and neither the configuration nor `initialized`, the lock, the
requesters or the wire agent's own state. -/
def Obligations.ExecuteFrame : Prop :=
  ∀ (a : Nat) (ten : Bool) (w : List Byte) (n : Nat) (s t : State), exec (.execute a ten w n) s = .next t →
    t.regs = { s.regs with tar := t.regs.tar } ∧ t.cfg = s.cfg ∧ t.ncfg = s.ncfg ∧ t.initialized = s.initialized ∧
    t.req = s.req ∧ t.owner = s.owner ∧ t.lockOwner = s.lockOwner ∧ t.rq = s.rq ∧ t.waitQ = s.waitQ ∧ t.wire = s.wire ∧
    t.mapped = s.mapped ∧ t.delivered = s.delivered ∧ t.calls = s.calls ∧ t.sched = s.sched ∧
    t.moveCount = s.moveCount ∧ t.params = s.params

/-! ### The bus lock and the requesters -/

/-- R221, R182, R226: GRANT of a waiting requester when the lock is free and the engine idle: any one of them, or, where
LOCK_ORDER is fifo, the one whose ISSUE is the oldest (log entry 17); otherwise nothing but the schedule changes. -/
def Obligations.GrantStep : Prop :=
  ∀ (r : Nat) (s : State) (rest : List Move), s.faults = [] → s.sched = .grant r :: rest →
    (∀ q, s.lockOwner = none → s.phase = .idle → s.rq[r]? = some (.waiting q) →
      (s.params.lockOrder = .fifo → s.waitQ.head? = some r) →
      step s = .next { s with
        sched := rest, lockOwner := some r, rq := s.rq.set r (.active q), owner := some r, req := some q,
        hist := s.hist ++ [.grant r q], phase := .validate, waitQ := s.waitQ.erase r }) ∧
    ((s.lockOwner ≠ none ∨ s.phase ≠ .idle ∨ (∀ q, s.rq[r]? ≠ some (.waiting q)) ∨
        (s.params.lockOrder = .fifo ∧ s.waitQ.head? ≠ some r)) →
      step s = .next { s with sched := rest })

/-- R222, R249: RELEASE from each terminal phase; in any other phase nothing but the schedule changes. -/
def Obligations.ReleaseStep : Prop :=
  ∀ (s : State) (rest : List Move), s.faults = [] → s.sched = .release :: rest →
    (∀ r res, (s.phase = .done ∨ s.phase = .timeout ∨ s.phase = .abort) → s.owner = some r → s.result = some res →
      step s = .next { s with
        sched := rest, rq := s.rq.set r (.returned res), hist := s.hist ++ [.release r res], lockOwner := none,
        owner := none, req := none, result := none, ncfg := none, rbuf := [], idx := 0, cnt := 0, phase := .idle }) ∧
    ((s.phase ≠ .done ∧ s.phase ≠ .timeout ∧ s.phase ≠ .abort) → step s = .next { s with sched := rest })

/-- R224, R225, and R90 for a request of kind 3: a quiet requester issues any request and then waits; a returned one
collects its result, of which a `read_register` call returns the byte (R230); any other has no such step, so nothing but
the schedule changes; a request of kind 3 cannot be issued. -/
def Obligations.IssueAndCollect : Prop :=
  ∀ (r : Nat) (s : State) (rest : List Move), s.faults = [] →
    (∀ q : Request, s.sched = .issue r q.record :: rest →
      (s.rq[r]? = some .quiet →
        step s = .next { s with
          sched := rest, rq := s.rq.set r (.waiting q), waitQ := s.waitQ ++ [r], calls := s.calls.set r none }) ∧
      (s.rq[r]? ≠ some .quiet → step s = .next { s with sched := rest })) ∧
    (∀ rec : ReqRecord, s.sched = .issue r rec :: rest → rec.kind = 3#2 →
      step s = .refused .reservedRequestKind) ∧
    (s.sched = .collect r :: rest →
      (∀ reg b bs, s.rq[r]? = some (.returned (.ok (b :: bs))) → s.calls[r]? = some (some (.readRegister reg)) →
        step s = .next { s with sched := rest, rq := s.rq.set r .quiet, delivered := some (r, .byte b) }) ∧
      (∀ res, s.rq[r]? = some (.returned res) →
        ((∀ reg, s.calls[r]? ≠ some (some (.readRegister reg))) ∨ ∀ b bs, res ≠ .ok (b :: bs)) →
        step s = .next { s with sched := rest, rq := s.rq.set r .quiet, delivered := some (r, .result res) }) ∧
      ((∀ res, s.rq[r]? ≠ some (.returned res)) → step s = .next { s with sched := rest }))

/-- R229, R223: no step but GRANT takes a requester out of Waiting, and it makes it Active with the same request; no step
but RELEASE takes one out of Active, and it makes it Returned. The premise is the lock invariant (R220, its own statement). -/
def Obligations.RequestsAreNotCancelled : Prop :=
  ∀ (s t : State) (r : Nat) (q : Request), LockInvariant s → step s = .next t →
    (s.rq[r]? = some (.waiting q) → t.rq[r]? = some (.waiting q) ∨
      (t.rq[r]? = some (.active q) ∧ s.nextMove = .grant r)) ∧
    (s.rq[r]? = some (.active q) → t.rq[r]? = some (.active q) ∨
      ((∃ res, t.rq[r]? = some (.returned res)) ∧ s.nextMove = .release))

/-- R230 to R233, R93: what each session helper issues, and the two calls that return InvalidArgument with no request. -/
def Obligations.SessionHelperCalls : Prop :=
  ∀ (r : Nat) (addr : BitVec 7) (reg val d : Byte) (ds : List Byte) (n : Nat) (s : State) (rest : List Move),
    s.faults = [] → s.rq[r]? = some .quiet →
    let issues (h : Helper) (w : List Byte) (k : Nat) := s.sched = .helper r addr h :: rest →
      step s = .next { s with
        sched := rest, rq := s.rq.set r (.waiting (.execute addr.toNat false w k)), waitQ := s.waitQ ++ [r],
        calls := s.calls.set r (some h) }
    let refuses (h : Helper) := s.sched = .helper r addr h :: rest →
      step s = .next { s with sched := rest, delivered := some (r, .result (.err .invalidArgument none)) }
    issues (.readRegister reg) [reg] 1 ∧ issues (.writeRegister reg val) [reg, val] 0 ∧
      issues (.readBlock reg (n + 1)) [reg] (n + 1) ∧ issues (.writeBlock reg (d :: ds)) (reg :: d :: ds) 0 ∧
      refuses (.readBlock reg 0) ∧ refuses (.writeBlock reg [])

/-- R220: the lock invariant is kept by every step of every agent, another driver's accesses included. -/
def Obligations.LockInvariantKept : Prop :=
  ∀ s t : State, LockInvariant s → step s = .next t → LockInvariant t

/-- The issue order lists exactly the waiting requesters, after every step: the model's own bookkeeping for the order that
R226 speaks of (log entry 17), no rule of the spec. -/
def Obligations.WaitersStayListed : Prop :=
  ∀ s t : State, LockInvariant s → WaitersListed s → step s = .next t → WaitersListed t

/-! ### Reset, and invariants of every step -/

/-- R53, R260: what reset leaves, whatever the instance's parameters are and the unspecified register fields hold. The
window is mapped (R262). -/
def Obligations.ResetState : Prop :=
  ∀ (p : Params) (d : Regs), let s := State.resetWith p d
    s.params = p ∧ s.regs = d ∧ SerialIdle s ∧ s.sticky = { rxUnder := false, rxOver := false, txOver := false } ∧
    s.phase = .idle ∧ s.req = none ∧ s.owner = none ∧ s.idx = 0 ∧ s.cnt = 0 ∧ s.rbuf = [] ∧ s.result = none ∧
    s.initialized = false ∧ s.cfg = none ∧ s.ncfg = none ∧ s.lockOwner = none ∧
    (∀ r, r < p.numRequesters → s.rq[r]? = some .quiet) ∧ s.faults = [] ∧ s.hist = [] ∧ s.mapped = true

/-- Every invariant below holds after reset, whatever the parameters are and the register fields hold; the reserved bits
are clear where no reserved bit is drawn, as in `State.reset`. The parameters of every instance are ones the spec allows
(R1, R34, R35). -/
def Obligations.ResetMeetsInvariants : Prop :=
  (∀ (p : Params) (d : Regs), RunInvariant (State.resetWith p d) ∧ ConfigInvariant (State.resetWith p d) ∧
    TransferTrace (State.resetWith p d) ∧ WaitersListed (State.resetWith p d) ∧
    (d.ReservedClear → ReservedBitsClear (State.resetWith p d))) ∧
  ReservedBitsClear State.reset ∧ ∀ k, (Config.params k).Valid

/-- R130, R36, R37: every step of every agent, another driver's accesses included, keeps a disabled controller empty and
idle and no FIFO over its depth. -/
def Obligations.FifoInvariantsKept : Prop :=
  ∀ s t : State, DisabledIsIdle s → FifosFit s → step s = .next t → DisabledIsIdle t ∧ FifosFit t

/-- R64: no step stores a reserved bit. -/
def Obligations.ReservedBitsStayClear : Prop :=
  ∀ s t : State, ReservedBitsClear s → step s = .next t → ReservedBitsClear t

/-- R52, R45, R262: a step only adds to the history, never takes `initialized` back, never unmaps the window, (R50) never
removes a fault reason, and (R1, R54) never changes a parameter. -/
def Obligations.NothingIsForgotten : Prop :=
  ∀ s t : State, step s = .next t →
    s.hist <+: t.hist ∧ (s.initialized = true → t.initialized = true) ∧ t.mapped = s.mapped ∧
      (∀ r ∈ s.faults, r ∈ t.faults) ∧ t.params = s.params

/-! ### Headline results about runs of the block's own agents -/

/-- R274, with R130, R199, R204 and R220: every step of the block's own agents keeps the run invariant, so none raises a
fault, every push finds room, every pop finds a byte, and every transfer runs enabled. -/
def Obligations.OwnAgentsNeverFault : Prop :=
  ∀ s t : State, RunInvariant s → s.nextMove.own = true → step s = .next t → RunInvariant t

/-- R228, R181: every engine step of a request being served completes and uses up at least one of the steps left, and no
other move of the block's own agents but the grant of the next request touches them; a grant leaves at most the bound M of
them. So every run in which the engine makes as many steps as are left passes through a terminal phase. And (R170) while
the wire agent does nothing, a wait whose condition does not hold ends in a Timeout at its bound. -/
def Obligations.RequestsEndWithinTheirBound : Prop :=
  (∀ s : State, RunInvariant s → s.nextMove = .engine → s.phase ≠ .idle → s.phase.terminal = false →
    ∃ t, step s = .next t ∧ stepsLeft t < stepsLeft s) ∧
  (∀ s t : State, RunInvariant s → s.nextMove.own = true → s.nextMove ≠ .engine →
    (s.phase ≠ .idle ∨ ∀ r, s.nextMove ≠ .grant r) → step s = .next t → stepsLeft t = stepsLeft s) ∧
  (∀ (s t : State) (r : Nat) (q : Request), s.nextMove = .grant r → s.rq[r]? = some (.waiting q) → s.lockOwner = none →
    s.phase = .idle → (s.params.lockOrder = .fifo → s.waitQ.head? = some r) → step s = .next t →
    stepsLeft t = match q with
      | .init _ => 1 + 8
      | .setSpeed _ => 1 + (s.params.nBus + 1) + 8
      | .execute _ _ w n =>
        1 + (s.params.nBus + 1) + 1 + w.length * (s.params.nFifo + 2) + n * (2 * s.params.nFifo + 4)) ∧
  (∀ (s t : State) (ms : List Move), RunInvariant s → s.phase ≠ .idle → (∀ m ∈ ms, m.own = true) →
    runMoves ms s = .next t → stepsLeft s ≤ ms.count .engine →
    ∃ (before after : List Move) (u : State), ms = before ++ after ∧ runMoves before s = .next u ∧
      u.phase.terminal = true) ∧
  (∀ (s : State) (bound : Nat), RunInvariant s → s.phase.pollBound s.params = some bound →
    (s.phase = .busWait → s.activity = true) → (s.phase = .wrPoll ∨ s.phase = .rdPollTx → s.tfnf = false) →
    (s.phase = .rdPollRx → s.rfne = false) →
    ∃ t, runMoves (List.replicate (bound - s.cnt + 1) .engine) s = .next t ∧ t.phase = .timeout)

/-- R157, R146, R156: the block's own agents keep the configuration consistent, and outside a reconfiguration of an
initialized controller the predicate of R157 holds. -/
def Obligations.ConfigurationStaysConsistent : Prop :=
  (∀ s t : State, RunInvariant s → ConfigInvariant s → s.nextMove.own = true → step s = .next t → ConfigInvariant t) ∧
  (∀ s : State, ConfigInvariant s → s.initialized = true → s.phase.reprogramming = false → ConfigConsistent s)

/-- R197, R198, R200, R201, R203, R194: the block's own agents keep the register trace of the transfer being served. -/
def Obligations.TransferTraceKept : Prop :=
  ∀ s t : State, RunInvariant s → TransferTrace s → s.nextMove.own = true → step s = .next t → TransferTrace t

/-- R267, with the step rules R181, R189 to R191 and R193 (log entry 27). A step of the block's own agents makes a stale
byte only as a Timeout in RD_POLL_RX, and then at most one; it removes one only as a W_ABORT, which discards read tokens,
or as CFG_DISABLE's write of ENABLE = 0, which leaves none. So a run makes no more of them than it has read timeouts, and
a run with at most one read timeout, from where nothing is stale, has at most one. -/
def Obligations.StaleBytesComeFromReadTimeouts : Prop :=
  (∀ s t : State, RunInvariant s → s.nextMove.own = true → step s = .next t →
    t.staleBytes ≤ s.staleBytes + (if readTimesOut s t then 1 else 0) ∧
      (s.nextMove ≠ .wAbort → ¬(s.nextMove = .engine ∧ s.phase = .cfgDisable) → s.staleBytes ≤ t.staleBytes) ∧
      (s.nextMove = .engine → s.phase = .cfgDisable → t.staleBytes = 0)) ∧
  (∀ (ms : List Move) (s t : State), RunInvariant s → (∀ m ∈ ms, m.own = true) → runMoves ms s = .next t →
    t.staleBytes ≤ s.staleBytes + readTimeouts ms s ∧
      (SerialIdle s → readTimeouts ms s ≤ 1 → AtMostOneStale t))

/-- R247: with INTR_MASK bits 4:0 zero, as INIT leaves them, the interrupt output is 0 in every state; it is 1 exactly
when some source is raw and enabled. -/
def Obligations.InterruptOutput : Prop :=
  ∀ s : State, (s.regs.intrMask.extractLsb' 0 5 = 0#5 → s.irq = false) ∧
    (s.irq = true ↔ ∃ k, k < 5 ∧ s.rawBits.getLsbD k = true ∧ s.regs.intrMask.getLsbD k = true)

/-- R5, R253: a step of one controller leaves every other one as it was, and the number of controllers, and does to its
own what that controller's step does. The platform starts with every instance at its own reset, each with its own
parameters, oracle included, and its own draws (log entry 20). -/
def Obligations.ControllersAreIndependent : Prop :=
  (∀ (p : Platform) (k j : Nat), (Platform.stepAt k p).length = p.length ∧
    (j ≠ k → (Platform.stepAt k p)[j]? = p[j]?) ∧
    ∀ s t, p[k]? = some s → step s = .next t → (Platform.stepAt k p)[k]? = some t) ∧
  ∀ k, k < Config.numControllers → ∃ s, Platform.reset[k]? = some s ∧ s.params = Config.params k ∧ s.params.inst = k

/-- R238 at the level of the peripheral: a block write in one bus transaction, then the write of its index in a new one,
then as many reads, gives the bytes written, from every history before them and whatever other peripherals do between. -/
def Obligations.FakePeripheralRoundTrip : Prop :=
  ∀ (A : BitVec 10) (m0 : Byte → Byte) (h between : List Event) (reg : Byte) (bs : List Byte) (k : Nat),
    (∀ e ∈ between, ∀ b, e ≠ .wStart A ∧ e ≠ .wTx A b ∧ e ≠ .wRx A b) → bs.length ≤ 256 → ∀ hk : k < bs.length,
    fakePeriph A m0 (h ++ [.wStart A, .wTx A reg] ++ bs.map (.wTx A) ++ [.wStop] ++ between ++
      [.wStart A, .wTx A reg] ++ (bs.take k).map (.wRx A)) A false = bs[k]

/-- R238, its two laws over runs: under its premises (`RoundTripPremises`), if a `write_register` or `write_block` call's
request is done at `s2` and, after any other requests, a `read_register` or `read_block` call's request for the same
registers is done at `s3`, then the read call returns the bytes written. A register file has 256 bytes. -/
def Obligations.RoundTripLaws : Prop :=
  ∀ (A : BitVec 7) (contents : List Byte) (reg : Byte) (bs : List Byte) (write read : Helper) (qw qr : Request)
    (s1 s2 s3 : State), RoundTripPremises A contents reg bs.length s1 s2 s3 → bs.length ≤ 256 →
    (write = .writeBlock reg bs ∨ ∃ v, bs = [v] ∧ write = .writeRegister reg v) →
    (read = .readBlock reg bs.length ∨ (bs.length = 1 ∧ read = .readRegister reg)) →
    expandHelper A write = .ok qw → expandHelper A read = .ok qr →
    s2.phase = .done → s2.req = some qw → s3.phase = .done → s3.req = some qr →
    ∃ res, s3.result = some res ∧
      (read = .readBlock reg bs.length → returnOf (some read) res = .result (.ok bs)) ∧
      (∀ v, bs = [v] → read = .readRegister reg → returnOf (some read) res = .byte v)

/-! ### Decoding -/

/-- R80 to R83, R89: decoding the encoding of any instruction gives it back, with every operand at every value. -/
def Obligations.DecodeEncodeAgree : Prop :=
  ∀ i : Instr, decode (encode i) = .ok i

/-- R89, R90: what decodes at all re-encodes to the same bits, up to the operand a read does not have and the fields a
request's kind does not use; so no two encodings share an instruction. -/
def Obligations.EncodeDecodeAgree : Prop :=
  ∀ (c : Code) (i : Instr), decode c = .ok i →
    match c, encode i with
    | .reg word v, .reg word' v' => word' = word ∧ (word.getLsbD 12 = true → v' = v)
    | .token v, .token v' => v' = v
    | .req r, .req r' => r'.kind = r.kind ∧ (r.kind = 0#2 ∨ r.kind = 1#2 → r'.fTarget = r.fTarget) ∧
        (r.kind = 2#2 → r'.addr = r.addr ∧ r'.tenBit = r.tenBit ∧ r'.wdata = r.wdata ∧ r'.rlen = r.rlen)
    | _, _ => False

/-- R89, R90: words written out from the spec's tables decode to what they stand for; the illegal ones of vectors V8.3 to
V8.6 are refused by name. -/
def Obligations.SampleWordsDecode : Prop :=
  decode (.reg 0x0004#13 0) = .ok .rdTar ∧ decode (.reg 0x0010#13 0) = .ok .rdDataCmd ∧
    decode (.reg 0x0070#13 0) = .ok .rdStatus ∧ decode (.reg 0x1000#13 0x63#32) = .ok (.wrCon 0x63#32) ∧
    decode (.reg 0x106C#13 1#32) = .ok (.wrEnable 1#32) ∧ decode (.token 0x0000005A#32) = .ok (.wtok 0x5A#8) ∧
    decode (.token 0x00000100#32) = .ok (.rtok 0#8) ∧ decode (.token 0x000001FF#32) = .ok (.rtok 0xFF#8) ∧
    decode (.reg 0x1070#13 0) = .error .roWrite ∧ decode (.reg 0x000C#13 0) = .error .badAccess ∧
    decode (.reg 0x0001#13 0) = .error .badAccess ∧ decode (.token 0x00000200#32) = .error .reservedBits ∧
    decode (.req { kind := 1#2, fTarget := 400000, addr := 0, tenBit := false, wdata := [], rlen := 0 }) =
      .ok (.setSpeed 400000) ∧
    decode (.req { kind := 3#2, fTarget := 0, addr := 0, tenBit := false, wdata := [], rlen := 0 }) =
      .error .reservedKind

/-- A step runs the decoded instruction: when the next move fetches a code (a 32-bit register access, the token in flight,
the request served) and it decodes to `i`, the step is `exec i` of the state with that move taken off the schedule. -/
def Obligations.StepRunsDecodedInstruction : Prop :=
  ∀ (s : State) (m : Move) (rest : List Move) (i : Instr), s.faults = [] → s.sched = m :: rest →
    (∀ a, m = .access a → a.width = 32 → a.off < 4096 →
      decode (.reg (regWord a.we a.off) a.value) = .ok i → step s = exec i { s with sched := rest }) ∧
    (∀ tok, m = .wComplete → s.wire.inflight = some tok → decode (.token (tokenWord tok.cmd tok.dat)) = .ok i →
      step s = exec i { s with sched := rest }) ∧
    (∀ q, m = .engine → s.req = some q → decode (.req q.record) = .ok i → step s = exec i { s with sched := rest })
end

