-- ==== Sys2Proof/Laws/State.lean ====
section
/-! SUPPORT. What each named update of the state does to each field, so that no later proof unfolds the update. -/

namespace Sys2Proof.Machine

/-! ### record (R52) -/

@[simp] theorem State.record_regs (s : State) (ev : Event) : (s.record ev).regs = s.regs := rfl

@[simp] theorem State.record_txFifo (s : State) (ev : Event) : (s.record ev).txFifo = s.txFifo := rfl

@[simp] theorem State.record_rxFifo (s : State) (ev : Event) : (s.record ev).rxFifo = s.rxFifo := rfl

@[simp] theorem State.record_wire (s : State) (ev : Event) : (s.record ev).wire = s.wire := rfl

@[simp] theorem State.record_sticky (s : State) (ev : Event) : (s.record ev).sticky = s.sticky := rfl

@[simp] theorem State.record_phase (s : State) (ev : Event) : (s.record ev).phase = s.phase := rfl

@[simp] theorem State.record_req (s : State) (ev : Event) : (s.record ev).req = s.req := rfl

@[simp] theorem State.record_owner (s : State) (ev : Event) : (s.record ev).owner = s.owner := rfl

@[simp] theorem State.record_idx (s : State) (ev : Event) : (s.record ev).idx = s.idx := rfl

@[simp] theorem State.record_cnt (s : State) (ev : Event) : (s.record ev).cnt = s.cnt := rfl

@[simp] theorem State.record_rbuf (s : State) (ev : Event) : (s.record ev).rbuf = s.rbuf := rfl

@[simp] theorem State.record_result (s : State) (ev : Event) : (s.record ev).result = s.result := rfl

@[simp] theorem State.record_initialized (s : State) (ev : Event) : (s.record ev).initialized = s.initialized := rfl

@[simp] theorem State.record_cfg (s : State) (ev : Event) : (s.record ev).cfg = s.cfg := rfl

@[simp] theorem State.record_ncfg (s : State) (ev : Event) : (s.record ev).ncfg = s.ncfg := rfl

@[simp] theorem State.record_lockOwner (s : State) (ev : Event) : (s.record ev).lockOwner = s.lockOwner := rfl

@[simp] theorem State.record_rq (s : State) (ev : Event) : (s.record ev).rq = s.rq := rfl

@[simp] theorem State.record_faults (s : State) (ev : Event) : (s.record ev).faults = s.faults := rfl

@[simp] theorem State.record_hist (s : State) (ev : Event) : (s.record ev).hist = s.hist ++ [ev] := rfl

@[simp] theorem State.record_mapped (s : State) (ev : Event) : (s.record ev).mapped = s.mapped := rfl

@[simp] theorem State.record_rdata (s : State) (ev : Event) : (s.record ev).rdata = s.rdata := rfl

@[simp] theorem State.record_delivered (s : State) (ev : Event) : (s.record ev).delivered = s.delivered := rfl

@[simp] theorem State.record_waitQ (s : State) (ev : Event) : (s.record ev).waitQ = s.waitQ := rfl

@[simp] theorem State.record_sched (s : State) (ev : Event) : (s.record ev).sched = s.sched := rfl

@[simp] theorem State.record_moveCount (s : State) (ev : Event) : (s.record ev).moveCount = s.moveCount := rfl

@[simp] theorem State.record_drawCount (s : State) (ev : Event) : (s.record ev).drawCount = s.drawCount := rfl

@[simp] theorem State.record_params (s : State) (ev : Event) : (s.record ev).params = s.params := rfl

@[simp] theorem State.record_calls (s : State) (ev : Event) : (s.record ev).calls = s.calls := rfl

/-! ### setRq (R48) -/

@[simp] theorem State.setRq_regs (s : State) (r : Requester) (x : RqState) : (s.setRq r x).regs = s.regs := rfl

@[simp] theorem State.setRq_txFifo (s : State) (r : Requester) (x : RqState) : (s.setRq r x).txFifo = s.txFifo := rfl

@[simp] theorem State.setRq_rxFifo (s : State) (r : Requester) (x : RqState) : (s.setRq r x).rxFifo = s.rxFifo := rfl

@[simp] theorem State.setRq_wire (s : State) (r : Requester) (x : RqState) : (s.setRq r x).wire = s.wire := rfl

@[simp] theorem State.setRq_sticky (s : State) (r : Requester) (x : RqState) : (s.setRq r x).sticky = s.sticky := rfl

@[simp] theorem State.setRq_phase (s : State) (r : Requester) (x : RqState) : (s.setRq r x).phase = s.phase := rfl

@[simp] theorem State.setRq_req (s : State) (r : Requester) (x : RqState) : (s.setRq r x).req = s.req := rfl

@[simp] theorem State.setRq_owner (s : State) (r : Requester) (x : RqState) : (s.setRq r x).owner = s.owner := rfl

@[simp] theorem State.setRq_idx (s : State) (r : Requester) (x : RqState) : (s.setRq r x).idx = s.idx := rfl

@[simp] theorem State.setRq_cnt (s : State) (r : Requester) (x : RqState) : (s.setRq r x).cnt = s.cnt := rfl

@[simp] theorem State.setRq_rbuf (s : State) (r : Requester) (x : RqState) : (s.setRq r x).rbuf = s.rbuf := rfl

@[simp] theorem State.setRq_result (s : State) (r : Requester) (x : RqState) : (s.setRq r x).result = s.result := rfl

@[simp] theorem State.setRq_initialized (s : State) (r : Requester) (x : RqState) : (s.setRq r x).initialized = s.initialized := rfl

@[simp] theorem State.setRq_cfg (s : State) (r : Requester) (x : RqState) : (s.setRq r x).cfg = s.cfg := rfl

@[simp] theorem State.setRq_ncfg (s : State) (r : Requester) (x : RqState) : (s.setRq r x).ncfg = s.ncfg := rfl

@[simp] theorem State.setRq_lockOwner (s : State) (r : Requester) (x : RqState) : (s.setRq r x).lockOwner = s.lockOwner := rfl

@[simp] theorem State.setRq_rq (s : State) (r : Requester) (x : RqState) : (s.setRq r x).rq = s.rq.set r x := rfl

@[simp] theorem State.setRq_faults (s : State) (r : Requester) (x : RqState) : (s.setRq r x).faults = s.faults := rfl

@[simp] theorem State.setRq_hist (s : State) (r : Requester) (x : RqState) : (s.setRq r x).hist = s.hist := rfl

@[simp] theorem State.setRq_mapped (s : State) (r : Requester) (x : RqState) : (s.setRq r x).mapped = s.mapped := rfl

@[simp] theorem State.setRq_rdata (s : State) (r : Requester) (x : RqState) : (s.setRq r x).rdata = s.rdata := rfl

@[simp] theorem State.setRq_delivered (s : State) (r : Requester) (x : RqState) : (s.setRq r x).delivered = s.delivered := rfl

@[simp] theorem State.setRq_waitQ (s : State) (r : Requester) (x : RqState) : (s.setRq r x).waitQ = s.waitQ := rfl

@[simp] theorem State.setRq_sched (s : State) (r : Requester) (x : RqState) : (s.setRq r x).sched = s.sched := rfl

@[simp] theorem State.setRq_moveCount (s : State) (r : Requester) (x : RqState) : (s.setRq r x).moveCount = s.moveCount := rfl

@[simp] theorem State.setRq_drawCount (s : State) (r : Requester) (x : RqState) : (s.setRq r x).drawCount = s.drawCount := rfl

@[simp] theorem State.setRq_params (s : State) (r : Requester) (x : RqState) : (s.setRq r x).params = s.params := rfl

@[simp] theorem State.setRq_calls (s : State) (r : Requester) (x : RqState) : (s.setRq r x).calls = s.calls := rfl

/-! ### abortWith (R194) -/

@[simp] theorem State.abortWith_regs (s : State) (c : ErrCode) : (s.abortWith c).regs = s.regs := rfl

@[simp] theorem State.abortWith_txFifo (s : State) (c : ErrCode) : (s.abortWith c).txFifo = s.txFifo := rfl

@[simp] theorem State.abortWith_rxFifo (s : State) (c : ErrCode) : (s.abortWith c).rxFifo = s.rxFifo := rfl

@[simp] theorem State.abortWith_wire (s : State) (c : ErrCode) : (s.abortWith c).wire = s.wire := rfl

@[simp] theorem State.abortWith_sticky (s : State) (c : ErrCode) : (s.abortWith c).sticky = s.sticky := rfl

@[simp] theorem State.abortWith_phase (s : State) (c : ErrCode) : (s.abortWith c).phase = .abort := rfl

@[simp] theorem State.abortWith_req (s : State) (c : ErrCode) : (s.abortWith c).req = s.req := rfl

@[simp] theorem State.abortWith_owner (s : State) (c : ErrCode) : (s.abortWith c).owner = s.owner := rfl

@[simp] theorem State.abortWith_idx (s : State) (c : ErrCode) : (s.abortWith c).idx = s.idx := rfl

@[simp] theorem State.abortWith_cnt (s : State) (c : ErrCode) : (s.abortWith c).cnt = s.cnt := rfl

@[simp] theorem State.abortWith_rbuf (s : State) (c : ErrCode) : (s.abortWith c).rbuf = s.rbuf := rfl

@[simp] theorem State.abortWith_result (s : State) (c : ErrCode) : (s.abortWith c).result = some (.err c none) := rfl

@[simp] theorem State.abortWith_initialized (s : State) (c : ErrCode) : (s.abortWith c).initialized = s.initialized := rfl

@[simp] theorem State.abortWith_cfg (s : State) (c : ErrCode) : (s.abortWith c).cfg = s.cfg := rfl

@[simp] theorem State.abortWith_ncfg (s : State) (c : ErrCode) : (s.abortWith c).ncfg = s.ncfg := rfl

@[simp] theorem State.abortWith_lockOwner (s : State) (c : ErrCode) : (s.abortWith c).lockOwner = s.lockOwner := rfl

@[simp] theorem State.abortWith_rq (s : State) (c : ErrCode) : (s.abortWith c).rq = s.rq := rfl

@[simp] theorem State.abortWith_faults (s : State) (c : ErrCode) : (s.abortWith c).faults = s.faults := rfl

@[simp] theorem State.abortWith_hist (s : State) (c : ErrCode) : (s.abortWith c).hist = s.hist := rfl

@[simp] theorem State.abortWith_mapped (s : State) (c : ErrCode) : (s.abortWith c).mapped = s.mapped := rfl

@[simp] theorem State.abortWith_rdata (s : State) (c : ErrCode) : (s.abortWith c).rdata = s.rdata := rfl

@[simp] theorem State.abortWith_delivered (s : State) (c : ErrCode) : (s.abortWith c).delivered = s.delivered := rfl

@[simp] theorem State.abortWith_waitQ (s : State) (c : ErrCode) : (s.abortWith c).waitQ = s.waitQ := rfl

@[simp] theorem State.abortWith_sched (s : State) (c : ErrCode) : (s.abortWith c).sched = s.sched := rfl

@[simp] theorem State.abortWith_moveCount (s : State) (c : ErrCode) : (s.abortWith c).moveCount = s.moveCount := rfl

@[simp] theorem State.abortWith_drawCount (s : State) (c : ErrCode) : (s.abortWith c).drawCount = s.drawCount := rfl

@[simp] theorem State.abortWith_params (s : State) (c : ErrCode) : (s.abortWith c).params = s.params := rfl

@[simp] theorem State.abortWith_calls (s : State) (c : ErrCode) : (s.abortWith c).calls = s.calls := rfl

/-! ### finishOk (R192) -/

@[simp] theorem State.finishOk_regs (s : State) (bs : List Byte) : (s.finishOk bs).regs = s.regs := rfl

@[simp] theorem State.finishOk_txFifo (s : State) (bs : List Byte) : (s.finishOk bs).txFifo = s.txFifo := rfl

@[simp] theorem State.finishOk_rxFifo (s : State) (bs : List Byte) : (s.finishOk bs).rxFifo = s.rxFifo := rfl

@[simp] theorem State.finishOk_wire (s : State) (bs : List Byte) : (s.finishOk bs).wire = s.wire := rfl

@[simp] theorem State.finishOk_sticky (s : State) (bs : List Byte) : (s.finishOk bs).sticky = s.sticky := rfl

@[simp] theorem State.finishOk_phase (s : State) (bs : List Byte) : (s.finishOk bs).phase = .done := rfl

@[simp] theorem State.finishOk_req (s : State) (bs : List Byte) : (s.finishOk bs).req = s.req := rfl

@[simp] theorem State.finishOk_owner (s : State) (bs : List Byte) : (s.finishOk bs).owner = s.owner := rfl

@[simp] theorem State.finishOk_idx (s : State) (bs : List Byte) : (s.finishOk bs).idx = s.idx := rfl

@[simp] theorem State.finishOk_cnt (s : State) (bs : List Byte) : (s.finishOk bs).cnt = s.cnt := rfl

@[simp] theorem State.finishOk_rbuf (s : State) (bs : List Byte) : (s.finishOk bs).rbuf = s.rbuf := rfl

@[simp] theorem State.finishOk_result (s : State) (bs : List Byte) : (s.finishOk bs).result = some (.ok bs) := rfl

@[simp] theorem State.finishOk_initialized (s : State) (bs : List Byte) : (s.finishOk bs).initialized = s.initialized := rfl

@[simp] theorem State.finishOk_cfg (s : State) (bs : List Byte) : (s.finishOk bs).cfg = s.cfg := rfl

@[simp] theorem State.finishOk_ncfg (s : State) (bs : List Byte) : (s.finishOk bs).ncfg = s.ncfg := rfl

@[simp] theorem State.finishOk_lockOwner (s : State) (bs : List Byte) : (s.finishOk bs).lockOwner = s.lockOwner := rfl

@[simp] theorem State.finishOk_rq (s : State) (bs : List Byte) : (s.finishOk bs).rq = s.rq := rfl

@[simp] theorem State.finishOk_faults (s : State) (bs : List Byte) : (s.finishOk bs).faults = s.faults := rfl

@[simp] theorem State.finishOk_hist (s : State) (bs : List Byte) : (s.finishOk bs).hist = s.hist := rfl

@[simp] theorem State.finishOk_mapped (s : State) (bs : List Byte) : (s.finishOk bs).mapped = s.mapped := rfl

@[simp] theorem State.finishOk_rdata (s : State) (bs : List Byte) : (s.finishOk bs).rdata = s.rdata := rfl

@[simp] theorem State.finishOk_delivered (s : State) (bs : List Byte) : (s.finishOk bs).delivered = s.delivered := rfl

@[simp] theorem State.finishOk_waitQ (s : State) (bs : List Byte) : (s.finishOk bs).waitQ = s.waitQ := rfl

@[simp] theorem State.finishOk_sched (s : State) (bs : List Byte) : (s.finishOk bs).sched = s.sched := rfl

@[simp] theorem State.finishOk_moveCount (s : State) (bs : List Byte) : (s.finishOk bs).moveCount = s.moveCount := rfl

@[simp] theorem State.finishOk_drawCount (s : State) (bs : List Byte) : (s.finishOk bs).drawCount = s.drawCount := rfl

@[simp] theorem State.finishOk_params (s : State) (bs : List Byte) : (s.finishOk bs).params = s.params := rfl

@[simp] theorem State.finishOk_calls (s : State) (bs : List Byte) : (s.finishOk bs).calls = s.calls := rfl

/-! ### timeOut (R193) -/

@[simp] theorem State.timeOut_regs (s : State) (k : Wait) : (s.timeOut k).regs = s.regs := rfl

@[simp] theorem State.timeOut_txFifo (s : State) (k : Wait) : (s.timeOut k).txFifo = s.txFifo := rfl

@[simp] theorem State.timeOut_rxFifo (s : State) (k : Wait) : (s.timeOut k).rxFifo = s.rxFifo := rfl

@[simp] theorem State.timeOut_wire (s : State) (k : Wait) : (s.timeOut k).wire = s.wire := rfl

@[simp] theorem State.timeOut_sticky (s : State) (k : Wait) : (s.timeOut k).sticky = s.sticky := rfl

@[simp] theorem State.timeOut_phase (s : State) (k : Wait) : (s.timeOut k).phase = .timeout := rfl

@[simp] theorem State.timeOut_req (s : State) (k : Wait) : (s.timeOut k).req = s.req := rfl

@[simp] theorem State.timeOut_owner (s : State) (k : Wait) : (s.timeOut k).owner = s.owner := rfl

@[simp] theorem State.timeOut_idx (s : State) (k : Wait) : (s.timeOut k).idx = s.idx := rfl

@[simp] theorem State.timeOut_cnt (s : State) (k : Wait) : (s.timeOut k).cnt = 0 := rfl

@[simp] theorem State.timeOut_rbuf (s : State) (k : Wait) : (s.timeOut k).rbuf = s.rbuf := rfl

@[simp] theorem State.timeOut_result (s : State) (k : Wait) : (s.timeOut k).result = some (.err .timeout (some ⟨k, s.phase, s.idx, s.rbuf⟩)) := rfl

@[simp] theorem State.timeOut_initialized (s : State) (k : Wait) : (s.timeOut k).initialized = s.initialized := rfl

@[simp] theorem State.timeOut_cfg (s : State) (k : Wait) : (s.timeOut k).cfg = s.cfg := rfl

@[simp] theorem State.timeOut_ncfg (s : State) (k : Wait) : (s.timeOut k).ncfg = s.ncfg := rfl

@[simp] theorem State.timeOut_lockOwner (s : State) (k : Wait) : (s.timeOut k).lockOwner = s.lockOwner := rfl

@[simp] theorem State.timeOut_rq (s : State) (k : Wait) : (s.timeOut k).rq = s.rq := rfl

@[simp] theorem State.timeOut_faults (s : State) (k : Wait) : (s.timeOut k).faults = s.faults := rfl

@[simp] theorem State.timeOut_hist (s : State) (k : Wait) : (s.timeOut k).hist = s.hist := rfl

@[simp] theorem State.timeOut_mapped (s : State) (k : Wait) : (s.timeOut k).mapped = s.mapped := rfl

@[simp] theorem State.timeOut_rdata (s : State) (k : Wait) : (s.timeOut k).rdata = s.rdata := rfl

@[simp] theorem State.timeOut_delivered (s : State) (k : Wait) : (s.timeOut k).delivered = s.delivered := rfl

@[simp] theorem State.timeOut_waitQ (s : State) (k : Wait) : (s.timeOut k).waitQ = s.waitQ := rfl

@[simp] theorem State.timeOut_sched (s : State) (k : Wait) : (s.timeOut k).sched = s.sched := rfl

@[simp] theorem State.timeOut_moveCount (s : State) (k : Wait) : (s.timeOut k).moveCount = s.moveCount := rfl

@[simp] theorem State.timeOut_drawCount (s : State) (k : Wait) : (s.timeOut k).drawCount = s.drawCount := rfl

@[simp] theorem State.timeOut_params (s : State) (k : Wait) : (s.timeOut k).params = s.params := rfl

@[simp] theorem State.timeOut_calls (s : State) (k : Wait) : (s.timeOut k).calls = s.calls := rfl

/-! ### raise (R50) -/

@[simp] theorem State.raise_regs (s : State) (x : FaultReason) : (s.raise x).regs = s.regs := by
  unfold State.raise; split <;> rfl

@[simp] theorem State.raise_txFifo (s : State) (x : FaultReason) : (s.raise x).txFifo = s.txFifo := by
  unfold State.raise; split <;> rfl

@[simp] theorem State.raise_rxFifo (s : State) (x : FaultReason) : (s.raise x).rxFifo = s.rxFifo := by
  unfold State.raise; split <;> rfl

@[simp] theorem State.raise_wire (s : State) (x : FaultReason) : (s.raise x).wire = s.wire := by
  unfold State.raise; split <;> rfl

@[simp] theorem State.raise_sticky (s : State) (x : FaultReason) : (s.raise x).sticky = s.sticky := by
  unfold State.raise; split <;> rfl

@[simp] theorem State.raise_phase (s : State) (x : FaultReason) : (s.raise x).phase = s.phase := by
  unfold State.raise; split <;> rfl

@[simp] theorem State.raise_req (s : State) (x : FaultReason) : (s.raise x).req = s.req := by
  unfold State.raise; split <;> rfl

@[simp] theorem State.raise_owner (s : State) (x : FaultReason) : (s.raise x).owner = s.owner := by
  unfold State.raise; split <;> rfl

@[simp] theorem State.raise_idx (s : State) (x : FaultReason) : (s.raise x).idx = s.idx := by
  unfold State.raise; split <;> rfl

@[simp] theorem State.raise_cnt (s : State) (x : FaultReason) : (s.raise x).cnt = s.cnt := by
  unfold State.raise; split <;> rfl

@[simp] theorem State.raise_rbuf (s : State) (x : FaultReason) : (s.raise x).rbuf = s.rbuf := by
  unfold State.raise; split <;> rfl

@[simp] theorem State.raise_result (s : State) (x : FaultReason) : (s.raise x).result = s.result := by
  unfold State.raise; split <;> rfl

@[simp] theorem State.raise_initialized (s : State) (x : FaultReason) : (s.raise x).initialized = s.initialized := by
  unfold State.raise; split <;> rfl

@[simp] theorem State.raise_cfg (s : State) (x : FaultReason) : (s.raise x).cfg = s.cfg := by
  unfold State.raise; split <;> rfl

@[simp] theorem State.raise_ncfg (s : State) (x : FaultReason) : (s.raise x).ncfg = s.ncfg := by
  unfold State.raise; split <;> rfl

@[simp] theorem State.raise_lockOwner (s : State) (x : FaultReason) : (s.raise x).lockOwner = s.lockOwner := by
  unfold State.raise; split <;> rfl

@[simp] theorem State.raise_rq (s : State) (x : FaultReason) : (s.raise x).rq = s.rq := by
  unfold State.raise; split <;> rfl

@[simp] theorem State.raise_hist (s : State) (x : FaultReason) : (s.raise x).hist = s.hist := by
  unfold State.raise; split <;> rfl

@[simp] theorem State.raise_mapped (s : State) (x : FaultReason) : (s.raise x).mapped = s.mapped := by
  unfold State.raise; split <;> rfl

@[simp] theorem State.raise_rdata (s : State) (x : FaultReason) : (s.raise x).rdata = s.rdata := by
  unfold State.raise; split <;> rfl

@[simp] theorem State.raise_delivered (s : State) (x : FaultReason) : (s.raise x).delivered = s.delivered := by
  unfold State.raise; split <;> rfl

@[simp] theorem State.raise_waitQ (s : State) (x : FaultReason) : (s.raise x).waitQ = s.waitQ := by
  unfold State.raise; split <;> rfl

@[simp] theorem State.raise_sched (s : State) (x : FaultReason) : (s.raise x).sched = s.sched := by
  unfold State.raise; split <;> rfl

@[simp] theorem State.raise_moveCount (s : State) (x : FaultReason) : (s.raise x).moveCount = s.moveCount := by
  unfold State.raise; split <;> rfl

@[simp] theorem State.raise_drawCount (s : State) (x : FaultReason) : (s.raise x).drawCount = s.drawCount := by
  unfold State.raise; split <;> rfl

@[simp] theorem State.raise_params (s : State) (x : FaultReason) : (s.raise x).params = s.params := by
  unfold State.raise; split <;> rfl

@[simp] theorem State.raise_calls (s : State) (x : FaultReason) : (s.raise x).calls = s.calls := by
  unfold State.raise; split <;> rfl

theorem State.raise_of_unfaulted {s : State} (h : s.faults = []) (x : FaultReason) :
    s.raise x = { s with faults := [x] } := by
  simp [State.raise, h]

theorem State.mem_raise (s : State) (x y : FaultReason) (h : y ∈ s.faults) : y ∈ (s.raise x).faults := by
  unfold State.raise
  split
  · exact h
  · exact List.mem_append_left _ h

/-! ### advance: only the model's own fields change (log entry 4) -/

@[simp] theorem State.advance_regs (s : State) : s.advance.regs = s.regs := by
  unfold State.advance; split <;> rfl

@[simp] theorem State.advance_txFifo (s : State) : s.advance.txFifo = s.txFifo := by
  unfold State.advance; split <;> rfl

@[simp] theorem State.advance_rxFifo (s : State) : s.advance.rxFifo = s.rxFifo := by
  unfold State.advance; split <;> rfl

@[simp] theorem State.advance_wire (s : State) : s.advance.wire = s.wire := by
  unfold State.advance; split <;> rfl

@[simp] theorem State.advance_sticky (s : State) : s.advance.sticky = s.sticky := by
  unfold State.advance; split <;> rfl

@[simp] theorem State.advance_phase (s : State) : s.advance.phase = s.phase := by
  unfold State.advance; split <;> rfl

@[simp] theorem State.advance_req (s : State) : s.advance.req = s.req := by
  unfold State.advance; split <;> rfl

@[simp] theorem State.advance_owner (s : State) : s.advance.owner = s.owner := by
  unfold State.advance; split <;> rfl

@[simp] theorem State.advance_idx (s : State) : s.advance.idx = s.idx := by
  unfold State.advance; split <;> rfl

@[simp] theorem State.advance_cnt (s : State) : s.advance.cnt = s.cnt := by
  unfold State.advance; split <;> rfl

@[simp] theorem State.advance_rbuf (s : State) : s.advance.rbuf = s.rbuf := by
  unfold State.advance; split <;> rfl

@[simp] theorem State.advance_result (s : State) : s.advance.result = s.result := by
  unfold State.advance; split <;> rfl

@[simp] theorem State.advance_initialized (s : State) : s.advance.initialized = s.initialized := by
  unfold State.advance; split <;> rfl

@[simp] theorem State.advance_cfg (s : State) : s.advance.cfg = s.cfg := by
  unfold State.advance; split <;> rfl

@[simp] theorem State.advance_ncfg (s : State) : s.advance.ncfg = s.ncfg := by
  unfold State.advance; split <;> rfl

@[simp] theorem State.advance_lockOwner (s : State) : s.advance.lockOwner = s.lockOwner := by
  unfold State.advance; split <;> rfl

@[simp] theorem State.advance_rq (s : State) : s.advance.rq = s.rq := by
  unfold State.advance; split <;> rfl

@[simp] theorem State.advance_faults (s : State) : s.advance.faults = s.faults := by
  unfold State.advance; split <;> rfl

@[simp] theorem State.advance_hist (s : State) : s.advance.hist = s.hist := by
  unfold State.advance; split <;> rfl

@[simp] theorem State.advance_mapped (s : State) : s.advance.mapped = s.mapped := by
  unfold State.advance; split <;> rfl

@[simp] theorem State.advance_rdata (s : State) : s.advance.rdata = s.rdata := by
  unfold State.advance; split <;> rfl

@[simp] theorem State.advance_delivered (s : State) : s.advance.delivered = s.delivered := by
  unfold State.advance; split <;> rfl

@[simp] theorem State.advance_waitQ (s : State) : s.advance.waitQ = s.waitQ := by
  unfold State.advance; split <;> rfl

@[simp] theorem State.advance_drawCount (s : State) : s.advance.drawCount = s.drawCount := by
  unfold State.advance; split <;> rfl

@[simp] theorem State.advance_params (s : State) : s.advance.params = s.params := by
  unfold State.advance; split <;> rfl

@[simp] theorem State.advance_calls (s : State) : s.advance.calls = s.calls := by
  unfold State.advance; split <;> rfl

/-- Recording an event uses no draw (R52, R7). -/
@[simp] theorem State.record_draw (s : State) (ev : Event) : (s.record ev).draw = s.draw := rfl

/-- Choosing a move uses no draw. -/
@[simp] theorem State.advance_draw (s : State) : s.advance.draw = s.draw := by
  unfold State.draw; simp

theorem State.advance_of_sched {s : State} {m : Move} {rest : List Move} (h : s.sched = m :: rest) :
    s.advance = { s with sched := rest } := by
  simp [State.advance, h]

theorem State.nextMove_of_sched {s : State} {m : Move} {rest : List Move} (h : s.sched = m :: rest) :
    s.nextMove = m := by
  simp [State.nextMove, h]

end Sys2Proof.Machine
end

