-- ==== Sys2Proof/Laws/Ops.lean ====
section
/-! SUPPORT. For each shared operation one lemma that says everything it can do, for proofs to cite instead of unfolding
it, and the inversion of `step`. -/

namespace Sys2Proof.Machine

open Sys2Proof

/-- Only a controller that is not faulted answers a next state. -/
theorem whenRunning_next {s t : State} {o : Outcome} :
    whenRunning s o = .next t ↔ s.faults = [] ∧ o = .next t := by
  unfold whenRunning
  cases h : s.faults with
  | nil => simp
  | cons a l => simp

/-- A controller that is not faulted does what the step says. -/
theorem whenRunning_of_unfaulted {s : State} (h : s.faults = []) (o : Outcome) : whenRunning s o = o := by
  simp [whenRunning, h]

/-- `hold` answers the same state. -/
theorem hold_next {s t : State} : hold s = .next t ↔ t = s := by
  simp [hold, eq_comm]

/-- Everything a read can do (R65, R106): fault, or return the value with its side effect and its record. -/
theorem memRead_cases (r : Reg) (s : State) :
    (∃ x, r.readFault s = some x ∧ memRead r s = .error x) ∨
      (r.readFault s = none ∧ memRead r s = .ok (r.readWith s.draw s,
        { (r.readEffect s).record (.regRead r.offset (r.readWith s.draw s)) with
          drawCount := s.drawCount + 1, rdata := r.readWith s.draw s })) := by
  unfold memRead
  cases h : r.readFault s <;> simp

/-- Everything a write can do (R68): fault, or have its effect and be recorded. -/
theorem memWrite_cases (r : Reg) (v : Word) (s : State) :
    (∃ x, r.firstWriteFault v s = some x ∧ memWrite r v s = .error x) ∨
      (r.firstWriteFault v s = none ∧ memWrite r v s = .ok ((r.writeEffect v s).record (.regWrite r.offset v))) := by
  unfold memWrite
  cases h : r.firstWriteFault v s <;> simp

/-- A defined bit of a value read is the register's bit (R64). -/
theorem readWith_defined {r : Reg} {d : Word} {s : State} {k : Nat} (h : (r.readBits s).2.getLsbD k = true) :
    (r.readWith d s).getLsbD k = (r.readBits s).1.getLsbD k := by
  simp [Reg.readWith, h]

/-- An undefined bit of a value read is the draw's bit (R64). -/
theorem readWith_undefined {r : Reg} {d : Word} {s : State} {k : Nat} (hk : k < 32)
    (h : (r.readBits s).2.getLsbD k = false) : (r.readWith d s).getLsbD k = d.getLsbD k := by
  rw [BitVec.getLsbD_eq_getElem hk] at h
  simp [Reg.readWith, h, hk]

/-- Bit `j` of a one-bit value placed at bit `i`. -/
theorem bitAt_getLsbD (i j : Nat) (b : Bool) (hi : i < 32) (hj : j < 32) :
    (bitAt i b).getLsbD j = (decide (i = j) && b) := by
  unfold bitAt
  by_cases h : i = j
  · subst h; simp [hi]
  · simp [hj, h]
    intro hij hb
    omega

/-- The same, in the form `simp` brings a bit at a literal position to. -/
theorem bitAt_getElem (i j : Nat) (b : Bool) (hi : i < 32) (hj : j < 32) :
    (bitAt i b)[j] = (decide (i = j) && b) := by
  rw [← BitVec.getLsbD_eq_getElem, bitAt_getLsbD i j b hi hj]

/-- STATUS bit 0 of a value read is ACTIVITY (R33, R85). -/
theorem status_readsActive (d : Word) (s : State) : readsActive (Reg.readWith .status d s) = s.activity := by
  unfold readsActive
  rw [readWith_defined (by simp [Reg.readBits])]
  simp [Reg.readBits, State.statusBits, bitAt_getElem]

/-- STATUS bit 1 of a value read is TFNF (R33, R85). -/
theorem status_readsTxRoom (d : Word) (s : State) : readsTxRoom (Reg.readWith .status d s) = s.tfnf := by
  unfold readsTxRoom
  rw [readWith_defined (by simp [Reg.readBits])]
  simp [Reg.readBits, State.statusBits, bitAt_getElem]

/-- STATUS bit 3 of a value read is RFNE (R33, R85). -/
theorem status_readsRxByte (d : Word) (s : State) : readsRxByte (Reg.readWith .status d s) = s.rfne := by
  unfold readsRxByte
  rw [readWith_defined (by simp [Reg.readBits])]
  simp [Reg.readBits, State.statusBits, bitAt_getElem]

/-- ACTIVITY is 0 exactly when nothing is queued or in flight and the bus is released (R51). -/
theorem activity_eq_false (s : State) :
    s.activity = false ↔ s.txFifo = [] ∧ s.wire.inflight = none ∧ s.wire.busBusy = false := by
  unfold State.activity
  cases h : s.txFifo <;> cases h' : s.wire.inflight <;> simp

/-- Everything a read instruction can do: it answers a next state, the fault of R245 or the read's effect. -/
theorem runRead_next {r : Reg} {s t : State} :
    runRead r s = .next t ↔ s.faults = [] ∧
      ((∃ x, r.readFault s = some x ∧ t = s.raise x) ∨
        (r.readFault s = none ∧ t =
          { (r.readEffect s).record (.regRead r.offset (r.readWith s.draw s)) with
            drawCount := s.drawCount + 1, rdata := r.readWith s.draw s })) := by
  unfold runRead
  rw [whenRunning_next]
  rcases memRead_cases r s with ⟨x, hx, h⟩ | ⟨hx, h⟩ <;> simp [h, hx, eq_comm]

/-- Everything a write instruction can do: it answers a next state, the fault of R245 or the write's effect. -/
theorem runWrite_next {r : Reg} {v : Word} {s t : State} :
    runWrite r v s = .next t ↔ s.faults = [] ∧
      ((∃ x, r.firstWriteFault v s = some x ∧ t = s.raise x) ∨
        (r.firstWriteFault v s = none ∧ t = (r.writeEffect v s).record (.regWrite r.offset v))) := by
  unfold runWrite
  rw [whenRunning_next]
  rcases memWrite_cases r v s with ⟨x, hx, h⟩ | ⟨hx, h⟩ <;> simp [h, hx, eq_comm]

/-- Everything an engine step that writes a register can do. -/
theorem engineWrite_next {r : Reg} {v : Word} {after : State → State} {s t : State} :
    engineWrite r v after s = .next t ↔
      (∃ x, r.firstWriteFault v s = some x ∧ t = s.raise x) ∨
        (r.firstWriteFault v s = none ∧ t = after ((r.writeEffect v s).record (.regWrite r.offset v))) := by
  unfold engineWrite
  rcases memWrite_cases r v s with ⟨x, hx, h⟩ | ⟨hx, h⟩ <;> simp [h, hx, eq_comm]

/-- Everything an engine step that reads a register can do. -/
theorem engineRead_next {r : Reg} {after : Word → State → State} {s t : State} :
    engineRead r after s = .next t ↔
      (∃ x, r.readFault s = some x ∧ t = s.raise x) ∨
        (r.readFault s = none ∧ t = after (r.readWith s.draw s)
          { (r.readEffect s).record (.regRead r.offset (r.readWith s.draw s)) with
            drawCount := s.drawCount + 1, rdata := r.readWith s.draw s }) := by
  unfold engineRead
  rcases memRead_cases r s with ⟨x, hx, h⟩ | ⟨hx, h⟩ <;> simp [h, hx, eq_comm]

/-- An engine step that writes a register always answers a next state. -/
theorem engineWrite_total (r : Reg) (v : Word) (after : State → State) (s : State) :
    ∃ t, engineWrite r v after s = .next t := by
  unfold engineWrite
  cases memWrite r v s <;> exact ⟨_, rfl⟩

/-- An engine step that reads a register always answers a next state. -/
theorem engineRead_total (r : Reg) (after : Word → State → State) (s : State) :
    ∃ t, engineRead r after s = .next t := by
  unfold engineRead
  cases memRead r s <;> exact ⟨_, rfl⟩

/-- What the state is after the STATUS read of a poll step. -/
def statusRead (s : State) : State :=
  { s.record (.regRead 0x70 (Reg.readWith .status s.draw s)) with
    drawCount := s.drawCount + 1, rdata := Reg.readWith .status s.draw s }

/-- Everything a poll step can do (R181): a STATUS read faults only when the window is unmapped. -/
theorem poll_next {bound : Nat} {k : Wait} {success : Word → Bool} {next : Phase} {s t : State} :
    poll bound k success next s = .next t ↔
      (s.mapped = false ∧ t = s.raise .unmapped) ∨
        (s.mapped = true ∧
          t = pollAfter bound k success next (Reg.readWith .status s.draw s) (statusRead s)) := by
  unfold poll
  rw [engineRead_next]
  cases h : s.mapped <;> simp [Reg.readFault, h, statusRead, Reg.readEffect, Reg.offset, eq_comm]

/-- A request being served takes its step only in a controller that is not faulted and serves it. -/
theorem whileServing_next {q : Request} {s t : State} {o : Outcome} :
    whileServing q s o = .next t ↔ s.faults = [] ∧ ((s.req = some q ∧ o = .next t) ∨ (s.req ≠ some q ∧ t = s)) := by
  unfold whileServing
  rw [whenRunning_next]
  by_cases h : s.req = some q <;> simp [h, hold_next]

/-- Everything a step can do: a controller that is not faulted runs the instruction its move fetches, or a move that runs
none, or faults on an encoding that decodes to nothing. -/
theorem step_next_cases {s t : State} (h : step s = .next t) :
    s.faults = [] ∧
      ((∃ c i, fetch s = some c ∧ decode c = .ok i ∧ exec i s.advance = .next t) ∨
        (∃ c e, fetch s = some c ∧ decode c = .error e ∧ runUndecoded e s.advance = .next t) ∨
        (fetch s = none ∧ runMove s.nextMove s.advance = .next t)) := by
  unfold step at h
  rw [whenRunning_next] at h
  refine ⟨h.1, ?_⟩
  have h2 := h.2
  unfold runNext at h2
  cases hf : fetch s with
  | none => rw [hf] at h2; exact .inr (.inr ⟨rfl, h2⟩)
  | some c =>
    rw [hf] at h2
    cases hd : decode c with
    | ok i => simp only [hd] at h2; exact .inl ⟨c, i, rfl, hd, h2⟩
    | error e => simp only [hd] at h2; exact .inr (.inl ⟨c, e, rfl, hd, h2⟩)

end Sys2Proof.Machine
end

