-- ==== Sys2Proof/Laws/Step.lean ====
section
/-! SUPPORT. The inversion of `step` move by move: what a next state can be for each agent's move, for proofs over
every step to cite instead of unfolding the fetch. -/

namespace Sys2Proof.Machine

open Sys2Proof

/-- The bits of a REG word (R80). -/
theorem regWord_getLsbD (we : Bool) (off k : Nat) :
    (regWord we off).getLsbD k = if k < 12 then (BitVec.ofNat 12 off).getLsbD k else decide (k = 12) && we := by
  show BitVec.getLsbD (w := 1 + 12) (BitVec.ofBool we ++ BitVec.ofNat 12 off) k = _
  rw [BitVec.getLsbD_append]
  by_cases h : k < 12
  · simp [h]
  · by_cases h' : k = 12
    · subst h'; simp
    · simp [h, h', BitVec.getLsbD_ofBool]; omega

/-- The fields of a REG word (R80). -/
theorem regWord_fields (we : Bool) (off : Nat) (h : off < 4096) :
    ((regWord we off).extractLsb' 0 12).toNat = off ∧ (regWord we off).getLsbD 12 = we := by
  have key : (regWord we off).extractLsb' 0 12 = BitVec.ofNat 12 off := by
    ext k hk; simp [regWord_getLsbD, hk]
  exact ⟨by simp [key, Nat.mod_eq_of_lt h], by rw [regWord_getLsbD]; simp⟩

/-- The bits of a TOKEN value (R81). -/
theorem tokenWord_getLsbD (c : Bool) (d : Byte) (k : Nat) :
    (tokenWord c d).getLsbD k = if k < 8 then d.getLsbD k else decide (k = 8) && c := by
  show BitVec.getLsbD (w := 23 + (1 + 8)) (0#23 ++ (BitVec.ofBool c ++ d)) k = _
  rw [BitVec.getLsbD_append, BitVec.getLsbD_append]
  by_cases h : k < 8
  · simp [h, show k < 1 + 8 by omega]
  · by_cases h' : k = 8
    · subst h'; simp
    · simp [h, h', show ¬ k < 9 by omega]

/-- The fields of a TOKEN value (R81, R83). -/
theorem tokenWord_fields (c : Bool) (d : Byte) :
    (tokenWord c d).extractLsb' 0 8 = d ∧ (tokenWord c d).extractLsb' 9 23 = 0#23 ∧
      (tokenWord c d).getLsbD 8 = c := by
  refine ⟨?_, ?_, by rw [tokenWord_getLsbD]; simp⟩
  · ext k hk; simp [tokenWord_getLsbD, hk]
  · ext k hk; simp [tokenWord_getLsbD, show ¬ 9 + k < 8 by omega, show 9 + k ≠ 8 by omega]

/-- The instruction of a request (R82, R86). -/
def Request.instr : Request → Instr
  | .init f => .init f
  | .setSpeed f => .setSpeed f
  | .execute addr tenBit wdata rlen => .execute addr tenBit wdata rlen

/-- The instruction of a token (R81). -/
def Token.instr (t : Token) : Instr :=
  if t.cmd then .rtok t.dat else .wtok t.dat

/-- A request's record decodes to its instruction. -/
theorem decode_record (q : Request) : decode (.req q.record) = .ok q.instr := by
  cases q <;> simp [Request.record, decode, decodeReq, reqRecord, Request.instr]

/-- A request's record stands for the request. -/
theorem requestOf_record (q : Request) : requestOf q.record = some q := by
  unfold requestOf
  rw [decode_record]
  cases q <;> rfl

/-- A token's code decodes to its instruction. -/
theorem decode_tokenCode (t : Token) : decode t.code = .ok t.instr := by
  simp only [Token.code, decode, decodeToken, tokenWord_fields, Token.instr]
  cases t.cmd <;> rfl

/-- An access: a fault, or a read or a write of one register (R60 to R63, R68). -/
theorem step_access {s t : State} {a : BusAccess} (hm : s.nextMove = .access a) (h : step s = .next t) :
    (∃ x, t = s.advance.raise x) ∨ (∃ r, runRead r s.advance = .next t) ∨
      ∃ r v, r.readOnly = false ∧ runWrite r v s.advance = .next t := by
  have hil : ∀ x, runIllegal x s.advance = .next t → ∃ x, t = s.advance.raise x := by
    intro x hx
    rw [runIllegal, whenRunning_next] at hx
    exact ⟨_, (Host.Outcome.next.inj hx.2).symm⟩
  obtain ⟨_, ⟨c, i, hf, hd, he⟩ | ⟨c, e, hf, hd, he⟩ | ⟨hf, he⟩⟩ := step_next_cases h
  · simp only [fetch, hm, BusAccess.code] at hf
    split at hf
    · simp only [Option.some.injEq] at hf
      subst hf
      simp only [decode, decodeReg] at hd
      split at hd
      · exact absurd hd (by simp)
      · rename_i r _
        split at hd
        · refine .inr (.inr ⟨r, a.value, ?_⟩)
          cases r <;> simp [Instr.ofWrite] at hd <;> subst hd <;> exact ⟨rfl, he⟩
        · simp only [Except.ok.injEq] at hd
          subst hd
          refine .inr (.inl ⟨r, ?_⟩)
          cases r <;> exact he
    · exact absurd hf (by simp)
  · left
    cases e with
    | reservedKind =>
      simp only [fetch, hm, BusAccess.code] at hf
      split at hf
      · simp only [Option.some.injEq] at hf
        subst hf
        simp only [decode, decodeReg] at hd
        split at hd
        · exact absurd hd (by simp)
        · rename_i r _
          split at hd
          · cases r <;> simp [Instr.ofWrite] at hd
          · exact absurd hd (by simp)
      · exact absurd hf (by simp)
    | _ => exact hil _ he
  · rw [hm] at he
    exact .inl (hil _ he)

/-- The engine's move: nothing without a request, else the request's instruction (R180). -/
theorem step_engine {s t : State} (hm : s.nextMove = .engine) (h : step s = .next t) :
    (s.req = none ∧ t = s.advance) ∨ ∃ q, s.req = some q ∧ exec q.instr s.advance = .next t := by
  obtain ⟨_, ⟨c, i, hf, hd, he⟩ | ⟨c, e, hf, hd, he⟩ | ⟨hf, he⟩⟩ := step_next_cases h
  all_goals
    simp only [fetch, hm] at hf
    cases hr : s.req with
    | none => ?_
    | some q => ?_
  all_goals simp [hr] at hf
  · subst hf
    rw [decode_record, Except.ok.injEq] at hd
    subst hd
    exact .inr ⟨q, rfl, he⟩
  · subst hf
    rw [decode_record] at hd
    exact absurd hd (by simp)
  · simp only [hm, runMove, whenRunning_next, hold_next] at he
    exact .inl ⟨rfl, he.2⟩

/-- The wire agent's completing move: nothing without a token in flight, else the token's instruction (R165, R166). -/
theorem step_wComplete {s t : State} (hm : s.nextMove = .wComplete) (h : step s = .next t) :
    (s.wire.inflight = none ∧ t = s.advance) ∨
      ∃ tok, s.wire.inflight = some tok ∧ exec tok.instr s.advance = .next t := by
  obtain ⟨_, ⟨c, i, hf, hd, he⟩ | ⟨c, e, hf, hd, he⟩ | ⟨hf, he⟩⟩ := step_next_cases h
  all_goals
    simp only [fetch, hm] at hf
    cases hr : s.wire.inflight with
    | none => ?_
    | some q => ?_
  all_goals simp [hr] at hf
  · subst hf
    rw [decode_tokenCode, Except.ok.injEq] at hd
    subst hd
    exact .inr ⟨q, rfl, he⟩
  · subst hf
    rw [decode_tokenCode] at hd
    exact absurd hd (by simp)
  · simp only [hm, runMove, whenRunning_next, hold_next] at he
    exact .inl ⟨rfl, he.2⟩

/-- A move that fetches no instruction runs its own rule. -/
theorem step_other {s t : State} (hf : fetch s = none) (h : step s = .next t) :
    runMove s.nextMove s.advance = .next t := by
  obtain ⟨_, ⟨c, i, hc, -⟩ | ⟨c, e, hc, -⟩ | ⟨-, he⟩⟩ := step_next_cases h
  · rw [hf] at hc; exact absurd hc (by simp)
  · rw [hf] at hc; exact absurd hc (by simp)
  · exact he

end Sys2Proof.Machine
end

