-- ==== Sys2Proof/Laws/PerInstr.lean ====
section
/-! SUPPORT. The per-instruction family `EncodingRow`: an instruction's encoding is a word of its own row of the opcode
table (30_encoding.md R89), whatever its operands. -/

namespace Sys2Proof.Laws.EncodingRow

open Sys2Proof Sys2Proof.Machine

/-- The row of the opcode table an instruction stands for: the format's number (0 REG, 1 TOKEN, 2 REQ), the mask and the
match of the table, written out from it. -/
def row : Instr → Nat × Nat × Nat
  | .rdCon => (0, 0x1FFF, 0x0000)
  | .rdTar => (0, 0x1FFF, 0x0004)
  | .rdSar => (0, 0x1FFF, 0x0008)
  | .rdDataCmd => (0, 0x1FFF, 0x0010)
  | .rdSsHcnt => (0, 0x1FFF, 0x0014)
  | .rdSsLcnt => (0, 0x1FFF, 0x0018)
  | .rdFsHcnt => (0, 0x1FFF, 0x001C)
  | .rdFsLcnt => (0, 0x1FFF, 0x0020)
  | .rdIntrStat => (0, 0x1FFF, 0x002C)
  | .rdIntrMask => (0, 0x1FFF, 0x0030)
  | .rdRawIntrStat => (0, 0x1FFF, 0x0034)
  | .rdRxTl => (0, 0x1FFF, 0x0038)
  | .rdTxTl => (0, 0x1FFF, 0x003C)
  | .rdClrIntr => (0, 0x1FFF, 0x0040)
  | .rdEnable => (0, 0x1FFF, 0x006C)
  | .rdStatus => (0, 0x1FFF, 0x0070)
  | .rdTxflr => (0, 0x1FFF, 0x0074)
  | .rdRxflr => (0, 0x1FFF, 0x0078)
  | .wrCon _ => (0, 0x1FFF, 0x1000)
  | .wrTar _ => (0, 0x1FFF, 0x1004)
  | .wrSar _ => (0, 0x1FFF, 0x1008)
  | .wrDataCmd _ => (0, 0x1FFF, 0x1010)
  | .wrSsHcnt _ => (0, 0x1FFF, 0x1014)
  | .wrSsLcnt _ => (0, 0x1FFF, 0x1018)
  | .wrFsHcnt _ => (0, 0x1FFF, 0x101C)
  | .wrFsLcnt _ => (0, 0x1FFF, 0x1020)
  | .wrIntrMask _ => (0, 0x1FFF, 0x1030)
  | .wrRxTl _ => (0, 0x1FFF, 0x1038)
  | .wrTxTl _ => (0, 0x1FFF, 0x103C)
  | .wrEnable _ => (0, 0x1FFF, 0x106C)
  | .wtok _ => (1, 0xFFFFFF00, 0x00000000)
  | .rtok _ => (1, 0xFFFFFF00, 0x00000100)
  | .init _ => (2, 0x3, 0x0)
  | .setSpeed _ => (2, 0x3, 0x1)
  | .execute _ _ _ _ => (2, 0x3, 0x2)

/-- The bits the table numbers in a code, with its format's number: the REG word, the TOKEN value, the REQ kind. -/
def bitsOf : Code → Nat × Nat
  | .reg word _ => (0, word.toNat)
  | .token v => (1, v.toNat)
  | .req r => (2, r.kind.toNat)

/-- The encoding has the row's format, and its fixed bits are the row's. -/
def Statement (i : Instr) : Prop :=
  (bitsOf (encode i)).1 = (row i).1 ∧ (bitsOf (encode i)).2 &&& (row i).2.1 = (row i).2.2

/-- Every token value lies in the row its CMD bit selects (R81, R83). -/
theorem token_row (c : Bool) (d : Byte) :
    (tokenWord c d).toNat &&& 0xFFFFFF00 = if c then 0x100 else 0 := by
  have key : tokenWord c d &&& 0xFFFFFF00#32 = if c then 0x100#32 else 0#32 := by
    apply BitVec.eq_of_getLsbD_eq
    intro k hk
    rw [BitVec.getLsbD_and, tokenWord_getLsbD]
    cases c <;> interval_cases k <;> simp
  have h := congrArg BitVec.toNat key
  cases c <;> simpa using h

theorem rdCon : Statement .rdCon :=
  ⟨rfl, rfl⟩

theorem rdTar : Statement .rdTar :=
  ⟨rfl, rfl⟩

theorem rdSar : Statement .rdSar :=
  ⟨rfl, rfl⟩

theorem rdDataCmd : Statement .rdDataCmd :=
  ⟨rfl, rfl⟩

theorem rdSsHcnt : Statement .rdSsHcnt :=
  ⟨rfl, rfl⟩

theorem rdSsLcnt : Statement .rdSsLcnt :=
  ⟨rfl, rfl⟩

theorem rdFsHcnt : Statement .rdFsHcnt :=
  ⟨rfl, rfl⟩

theorem rdFsLcnt : Statement .rdFsLcnt :=
  ⟨rfl, rfl⟩

theorem rdIntrStat : Statement .rdIntrStat :=
  ⟨rfl, rfl⟩

theorem rdIntrMask : Statement .rdIntrMask :=
  ⟨rfl, rfl⟩

theorem rdRawIntrStat : Statement .rdRawIntrStat :=
  ⟨rfl, rfl⟩

theorem rdRxTl : Statement .rdRxTl :=
  ⟨rfl, rfl⟩

theorem rdTxTl : Statement .rdTxTl :=
  ⟨rfl, rfl⟩

theorem rdClrIntr : Statement .rdClrIntr :=
  ⟨rfl, rfl⟩

theorem rdEnable : Statement .rdEnable :=
  ⟨rfl, rfl⟩

theorem rdStatus : Statement .rdStatus :=
  ⟨rfl, rfl⟩

theorem rdTxflr : Statement .rdTxflr :=
  ⟨rfl, rfl⟩

theorem rdRxflr : Statement .rdRxflr :=
  ⟨rfl, rfl⟩

theorem wrCon (v : Word) : Statement (.wrCon v) :=
  ⟨rfl, (by decide : (0x1000#13).toNat &&& 0x1FFF = 0x1000)⟩

theorem wrTar (v : Word) : Statement (.wrTar v) :=
  ⟨rfl, (by decide : (0x1004#13).toNat &&& 0x1FFF = 0x1004)⟩

theorem wrSar (v : Word) : Statement (.wrSar v) :=
  ⟨rfl, (by decide : (0x1008#13).toNat &&& 0x1FFF = 0x1008)⟩

theorem wrDataCmd (v : Word) : Statement (.wrDataCmd v) :=
  ⟨rfl, (by decide : (0x1010#13).toNat &&& 0x1FFF = 0x1010)⟩

theorem wrSsHcnt (v : Word) : Statement (.wrSsHcnt v) :=
  ⟨rfl, (by decide : (0x1014#13).toNat &&& 0x1FFF = 0x1014)⟩

theorem wrSsLcnt (v : Word) : Statement (.wrSsLcnt v) :=
  ⟨rfl, (by decide : (0x1018#13).toNat &&& 0x1FFF = 0x1018)⟩

theorem wrFsHcnt (v : Word) : Statement (.wrFsHcnt v) :=
  ⟨rfl, (by decide : (0x101C#13).toNat &&& 0x1FFF = 0x101C)⟩

theorem wrFsLcnt (v : Word) : Statement (.wrFsLcnt v) :=
  ⟨rfl, (by decide : (0x1020#13).toNat &&& 0x1FFF = 0x1020)⟩

theorem wrIntrMask (v : Word) : Statement (.wrIntrMask v) :=
  ⟨rfl, (by decide : (0x1030#13).toNat &&& 0x1FFF = 0x1030)⟩

theorem wrRxTl (v : Word) : Statement (.wrRxTl v) :=
  ⟨rfl, (by decide : (0x1038#13).toNat &&& 0x1FFF = 0x1038)⟩

theorem wrTxTl (v : Word) : Statement (.wrTxTl v) :=
  ⟨rfl, (by decide : (0x103C#13).toNat &&& 0x1FFF = 0x103C)⟩

theorem wrEnable (v : Word) : Statement (.wrEnable v) :=
  ⟨rfl, (by decide : (0x106C#13).toNat &&& 0x1FFF = 0x106C)⟩

theorem wtok (dat : Byte) : Statement (.wtok dat) :=
  ⟨rfl, token_row false dat⟩

theorem rtok (dat : Byte) : Statement (.rtok dat) :=
  ⟨rfl, token_row true dat⟩

theorem init (f : Nat) : Statement (.init f) :=
  ⟨rfl, (by decide : (0x0#2).toNat &&& 0x3 = 0x0)⟩

theorem setSpeed (f : Nat) : Statement (.setSpeed f) :=
  ⟨rfl, (by decide : (0x1#2).toNat &&& 0x3 = 0x1)⟩

theorem execute (addr : Nat) (tenBit : Bool) (wdata : List Byte) (rlen : Nat) : Statement (.execute addr tenBit wdata rlen) :=
  ⟨rfl, (by decide : (0x2#2).toNat &&& 0x3 = 0x2)⟩

end Sys2Proof.Laws.EncodingRow
end

