-- ==== Sys2Proof/Laws/Run.lean ====
section
/-! SUPPORT. Offering a move and running a list of moves: what each does, for proofs about runs to cite. -/

namespace Sys2Proof.Machine

open Sys2Proof

/-- The move offered comes next. -/
@[simp] theorem State.offer_nextMove (m : Move) (s : State) : (s.offer m).nextMove = m := rfl

/-- Taking the offered move off the schedule gives the state back. -/
@[simp] theorem State.offer_advance (m : Move) (s : State) : (s.offer m).advance = s := rfl

@[simp] theorem State.offer_faults (m : Move) (s : State) : (s.offer m).faults = s.faults := rfl

@[simp] theorem State.offer_req (m : Move) (s : State) : (s.offer m).req = s.req := rfl

@[simp] theorem State.offer_wire (m : Move) (s : State) : (s.offer m).wire = s.wire := rfl

/-- The engine's move runs the request's instruction (R180). -/
theorem step_offer_engine {s : State} {q : Request} (hf : s.faults = []) (hq : s.req = some q) :
    step (s.offer .engine) = exec q.instr s := by
  rw [step, whenRunning_of_unfaulted (by simpa using hf)]
  simp [runNext, fetch, hq, decode_record]

/-- The wire agent's completing move runs the token's instruction (R165, R166). -/
theorem step_offer_wComplete {s : State} {tok : Token} (hf : s.faults = []) (ht : s.wire.inflight = some tok) :
    step (s.offer .wComplete) = exec tok.instr s := by
  rw [step, whenRunning_of_unfaulted (by simpa using hf)]
  simp [runNext, fetch, ht, decode_tokenCode]

/-- A move that fetches no instruction does what its own rule says. -/
theorem step_offer_other {s : State} {m : Move} (hf : s.faults = []) (hm : fetch (s.offer m) = none) :
    step (s.offer m) = runMove m s := by
  rw [step, whenRunning_of_unfaulted (by simpa using hf)]
  simp [runNext, hm]

/-- A poll step whose condition holds: some value `v` is read, and the engine goes on to `next` (R181). -/
theorem step_offer_polled {s : State} {q : Request} {bound : Nat} {k : Wait} {success : Word → Bool} {next : Phase}
    (hf : s.faults = []) (hq : s.req = some q) (he : exec q.instr s = poll bound k success next s)
    (hm : s.mapped = true) (hs : ∀ d, success (Reg.readWith .status d s) = true) :
    ∃ v, step (s.offer .engine) = .next { s with
      cnt := 0, phase := next, rdata := v, drawCount := s.drawCount + 1, hist := s.hist ++ [.regRead 0x70 v] } := by
  refine ⟨Reg.readWith .status s.draw s, ?_⟩
  rw [step_offer_engine hf hq, he, poll_next]
  refine .inr ⟨hm, ?_⟩
  simp [pollAfter, hs, statusRead]

/-- W_TAKE where its rule enables it (R164). -/
theorem step_offer_wTake {s : State} {tok : Token} {rest : List Token} {target : BitVec 10} (hf : s.faults = [])
    (he : s.wireEnabled = true) (hi : s.wire.inflight = none) (ht : s.txFifo = tok :: rest) (hg : s.target = target) :
    step (s.offer .wTake) = .next { s with
      txFifo := rest, wire := { inflight := some tok, busBusy := true },
      hist := s.hist ++ if s.wire.busBusy then [] else [.wStart target] } := by
  rw [step_offer_other hf rfl]
  cases hb : s.wire.busBusy <;>
    simp [runMove, wireTake, whenRunning_of_unfaulted hf, he, hi, ht, hb, hg, State.record]

/-- W_SEND where its rule enables it (R165). -/
theorem step_offer_send {s : State} {b : Byte} {target : BitVec 10} (hf : s.faults = []) (he : s.wireEnabled = true)
    (hi : s.wire.inflight = some { cmd := false, dat := b }) (hg : s.target = target) :
    step (s.offer .wComplete) = .next { s with
      wire := { s.wire with inflight := none }, hist := s.hist ++ [.wTx target b] } := by
  rw [step_offer_wComplete hf hi]
  simp [Token.instr, exec, execWtok, whenRunning_of_unfaulted hf, sendEnabled, he, hi, hg, State.record]

/-- W_RECV where its rule enables it: some byte `b` arrives (R166). -/
theorem step_offer_receive {s : State} {d : Byte} {target : BitVec 10} (hf : s.faults = []) (he : s.wireEnabled = true)
    (hi : s.wire.inflight = some { cmd := true, dat := d }) (hr : s.rxFifo.length < s.params.rxDepth)
    (hg : s.target = target) :
    ∃ b, step (s.offer .wComplete) = .next { s with
      rxFifo := s.rxFifo ++ [b], wire := { s.wire with inflight := none }, hist := s.hist ++ [.wRx target b] } := by
  refine ⟨s.params.oracle.answer s.hist s.target s.tenBit, ?_⟩
  rw [step_offer_wComplete hf hi]
  simp [Token.instr, exec, execRtok, whenRunning_of_unfaulted hf, recvEnabled, he, hi, hr, hg, receive, State.record]

/-- W_END where its rule enables it (R167). -/
theorem step_offer_wEnd {s : State} (hf : s.faults = []) (he : s.wireEnabled = true) (hb : s.wire.busBusy = true)
    (hi : s.wire.inflight = none) (ht : s.txFifo = []) :
    step (s.offer .wEnd) = .next { s with wire := { s.wire with busBusy := false }, hist := s.hist ++ [.wStop] } := by
  rw [step_offer_other hf rfl]
  simp [runMove, wireEnd, whenRunning_of_unfaulted hf, he, hb, hi, ht, State.record]

@[simp] theorem runMoves_nil (s : State) : runMoves [] s = .next s := rfl

/-- A run of one more move: that move's step, then the rest. -/
theorem runMoves_cons {m : Move} {ms : List Move} {s t : State} :
    runMoves (m :: ms) s = .next t ↔ ∃ u, step (s.offer m) = .next u ∧ runMoves ms u = .next t := by
  rw [runMoves]
  cases step (s.offer m) <;> simp

/-- A run of two lists of moves: the one, then the other. -/
theorem runMoves_append {ms ns : List Move} {s t : State} :
    runMoves (ms ++ ns) s = .next t ↔ ∃ u, runMoves ms s = .next u ∧ runMoves ns u = .next t := by
  induction ms generalizing s with
  | nil => simp
  | cons m ms ih =>
    simp only [List.cons_append, runMoves_cons, ih]
    constructor
    · rintro ⟨u, hu, v, hv, ht⟩
      exact ⟨v, ⟨u, hu, hv⟩, ht⟩
    · rintro ⟨v, ⟨u, hu, hv⟩, ht⟩
      exact ⟨u, hu, v, hv, ht⟩

/-- What every step of the moves keeps, a run of them keeps. -/
theorem runMoves_keeps {P : State → Prop} {ok : Move → Prop}
    (hstep : ∀ s m t, P s → ok m → step (s.offer m) = .next t → P t) {ms : List Move} {s t : State} (hs : P s)
    (hok : ∀ m ∈ ms, ok m) (h : runMoves ms s = .next t) : P t := by
  induction ms generalizing s with
  | nil => simpa using (Host.Outcome.next.inj h) ▸ hs
  | cons m ms ih =>
    obtain ⟨u, hu, ht⟩ := runMoves_cons.1 h
    exact ih (hstep s m u hs (hok m (by simp)) hu) (fun m' hm' => hok m' (by simp [hm'])) ht

end Sys2Proof.Machine
end

