-- ==== Sys2Proof/Tests/Slice0.lean ====
section
/-! SUPPORT. Tests: the WellFormed smoke, the words of the spec's tables decoded, the vectors of 95_test_vectors.md on
one step each, and for every obligation with hypotheses the states and operands that meet them. -/

namespace Sys2Proof.Tests

open Sys2Proof Sys2Proof.Machine

/-! ### The WellFormed smoke: one ill-formed term for each check -/

theorem test_wf_refuses_con : WellFormed (.wrCon 0x80#32) = false := by decide
theorem test_wf_refuses_tar : WellFormed (.wrTar 0x400#32) = false ∧ WellFormed (.wrTar 0x2000#32) = false := by decide
theorem test_wf_refuses_sar : WellFormed (.wrSar 0x400#32) = false := by decide
theorem test_wf_refuses_dataCmd : WellFormed (.wrDataCmd 0x200#32) = false := by decide
theorem test_wf_refuses_ssHcnt : WellFormed (.wrSsHcnt 0x10000#32) = false := by decide
theorem test_wf_refuses_ssLcnt : WellFormed (.wrSsLcnt 0x10000#32) = false := by decide
theorem test_wf_refuses_fsHcnt : WellFormed (.wrFsHcnt 0x10000#32) = false := by decide
theorem test_wf_refuses_fsLcnt : WellFormed (.wrFsLcnt 0x10000#32) = false := by decide
theorem test_wf_refuses_intrMask : WellFormed (.wrIntrMask 0x20#32) = false := by decide
theorem test_wf_refuses_rxTl : WellFormed (.wrRxTl 0x100#32) = false := by decide
theorem test_wf_refuses_txTl : WellFormed (.wrTxTl 0x100#32) = false := by decide
theorem test_wf_refuses_enable : WellFormed (.wrEnable 2#32) = false := by decide
theorem test_wf_refuses_execute : WellFormed (.execute 0x400 true [1#8] 0) = false := by decide

/-- The largest legal operands are accepted (R22 to R32, R82). -/
theorem test_wf_accepts :
    WellFormed (.wrCon 0x7F#32) ∧ WellFormed (.wrTar 0x13FF#32) ∧ WellFormed (.wrSar 0x3FF#32) ∧
      WellFormed (.wrDataCmd 0x1FF#32) ∧ WellFormed (.wrSsHcnt 0xFFFF#32) ∧ WellFormed (.wrIntrMask 0x1F#32) ∧
      WellFormed (.wrTxTl 0xFF#32) ∧ WellFormed (.wrEnable 1#32) ∧ WellFormed (.execute 0x3FF true [] 1) := by
  decide

/-! ### Decoding: the words of R89 and the illegal ones of R90 -/

/-- V8.1: the eighteen reads. -/
theorem test_decode_reads :
    [0x0000#13, 0x0004#13, 0x0008#13, 0x0010#13, 0x0014#13, 0x0018#13, 0x001C#13, 0x0020#13, 0x002C#13, 0x0030#13,
        0x0034#13, 0x0038#13, 0x003C#13, 0x0040#13, 0x006C#13, 0x0070#13, 0x0074#13, 0x0078#13].map
      (fun w => (decode (.reg w 0)).toOption) =
    [.rdCon, .rdTar, .rdSar, .rdDataCmd, .rdSsHcnt, .rdSsLcnt, .rdFsHcnt, .rdFsLcnt, .rdIntrStat, .rdIntrMask,
        .rdRawIntrStat, .rdRxTl, .rdTxTl, .rdClrIntr, .rdEnable, .rdStatus, .rdTxflr, .rdRxflr].map some := by
  rfl

/-- V8.2: the twelve writes, with an operand. -/
theorem test_decode_writes :
    [0x1000#13, 0x1004#13, 0x1008#13, 0x1010#13, 0x1014#13, 0x1018#13, 0x101C#13, 0x1020#13, 0x1030#13, 0x1038#13,
        0x103C#13, 0x106C#13].map (fun w => (decode (.reg w 1#32)).toOption) =
    [.wrCon 1#32, .wrTar 1#32, .wrSar 1#32, .wrDataCmd 1#32, .wrSsHcnt 1#32, .wrSsLcnt 1#32, .wrFsHcnt 1#32,
        .wrFsLcnt 1#32, .wrIntrMask 1#32, .wrRxTl 1#32, .wrTxTl 1#32, .wrEnable 1#32].map some := by
  rfl

/-- RD.STATUS bit by bit from R80: WE = 0 at bit 12, OFF = 0x070 = 0b0000_0111_0000. -/
theorem test_decode_rdStatus_bits : decode (.reg 0b0000001110000#13 0) = .ok .rdStatus := by decide

/-- WR.ENABLE bit by bit from R80: WE = 1 at bit 12, OFF = 0x06C = 0b0000_0110_1100. -/
theorem test_decode_wrEnable_bits : decode (.reg 0b1000001101100#13 1#32) = .ok (.wrEnable 1#32) := by decide

/-- RTOK bit by bit from R81: bits 31:9 zero, CMD = 1 at bit 8, DAT = 0xA5 = 0b1010_0101. -/
theorem test_decode_rtok_bits : decode (.token 0b00000000000000000000000110100101#32) = .ok (.rtok 0xA5#8) := by decide

/-- WTOK, V8.5. -/
theorem test_decode_wtok : decode (.token 0x0000005A#32) = .ok (.wtok 0x5A#8) := by decide

/-- V8.6: the kinds of R82. -/
theorem test_decode_requests :
    decode (.req { kind := 0#2, fTarget := 100000, addr := 0, tenBit := false, wdata := [], rlen := 0 }) =
        .ok (.init 100000) ∧
      decode (.req { kind := 1#2, fTarget := 400000, addr := 0, tenBit := false, wdata := [], rlen := 0 }) =
        .ok (.setSpeed 400000) ∧
      decode (.req { kind := 2#2, fTarget := 0, addr := 0x50, tenBit := false, wdata := [0x10#8], rlen := 1 }) =
        .ok (.execute 0x50 false [0x10#8] 1) ∧
      decode (.req { kind := 3#2, fTarget := 0, addr := 0, tenBit := false, wdata := [], rlen := 0 }) =
        .error .reservedKind := by
  decide

/-- V8.3: a write to a read-only register. -/
theorem test_decode_readOnly (v : Word) :
    decode (.reg 0x102C#13 v) = .error .roWrite ∧ decode (.reg 0x1034#13 v) = .error .roWrite ∧
      decode (.reg 0x1040#13 v) = .error .roWrite ∧ decode (.reg 0x1070#13 v) = .error .roWrite ∧
      decode (.reg 0x1074#13 v) = .error .roWrite ∧ decode (.reg 0x1078#13 v) = .error .roWrite :=
  ⟨rfl, rfl, rfl, rfl, rfl, rfl⟩

/-- V8.4 and V1.5: an offset that holds no register, for a read and for a write. -/
theorem test_decode_badOffset (v : Word) :
    decode (.reg 0x000C#13 v) = .error .badAccess ∧ decode (.reg 0x0028#13 v) = .error .badAccess ∧
      decode (.reg 0x0068#13 v) = .error .badAccess ∧ decode (.reg 0x007C#13 v) = .error .badAccess ∧
      decode (.reg 0x0001#13 v) = .error .badAccess ∧ decode (.reg 0x1002#13 v) = .error .badAccess ∧
      decode (.reg 0x1072#13 v) = .error .badAccess :=
  ⟨rfl, rfl, rfl, rfl, rfl, rfl, rfl⟩

/-- V8.5: a reserved bit of a token. -/
theorem test_decode_badToken :
    decode (.token 0x200#32) = .error .reservedBits ∧ decode (.token 0x80000000#32) = .error .reservedBits := by
  decide

/-- The table's words: a row's bits with zero operands. -/
theorem test_decodeTableWord :
    decodeTableWord 16 0x0070 = some .rdStatus ∧ decodeTableWord 16 0x1000 = some (.wrCon 0#32) ∧
      decodeTableWord 32 0x100 = some (.rtok 0#8) ∧ decodeTableWord 8 2 = some (.execute 0 false [] 0) ∧
      decodeTableWord 8 3 = none := by
  decide

/-- A named example of R66: the byte at BASE + 0x14 + 1 holds bits 15:8. -/
theorem test_byteOfWord : byteOfWord 0x11223344#32 1 = 0x33#8 ∧ byteOfWord 0x11223344#32 3 = 0x11#8 := by decide

/-! ### Values of the spec's tables -/

/-- The parameters of 95_test_vectors.md section 0.1, with the fake peripheral of section 0.3 at 0x50. -/
def params : Params where
  inst := 0
  txDepth := 4
  rxDepth := 4
  nBus := 3
  nFifo := 3
  backoff := 0
  fIn := 100000000
  counts := .byDefault
  base := 0
  irqLine := 0
  numRequesters := 2
  maxLen := none
  lockOrder := .any
  wBound := none
  mayAbort := true
  oracle := .fake 0x50#10 []

/-- V3.1 to V3.13. -/
theorem test_countFn :
    countFn 100000000 1 = (47000000, 53000000) ∧ countFn 100000000 808 = (58168, 65595) ∧
      countFn 100000000 809 = (58096, 65514) ∧ countFn 100000000 100000 = (470, 530) ∧
      countFn 100000000 300000 = (156, 178) ∧ countFn 100000000 400000 = (117, 133) ∧
      countFn 1000000 400000 = (1, 2) ∧ countFn 800000 400000 = (0, 2) ∧ countFn 2000000 400000 = (2, 3) := by
  decide

/-- V3.14 to V3.22. -/
theorem test_freqOk :
    freqOk params 0 = false ∧ freqOk params 808 = false ∧ freqOk params 809 = true ∧ freqOk params 400000 = true ∧
      freqOk params 400001 = false ∧ freqOk { params with fIn := 800000 } 400000 = false ∧
      freqOk { params with fIn := 800000 } 100000 = true := by
  decide

/-- V3.18: the first fast frequency. -/
theorem test_cfgOf :
    cfgOf params 100001 =
      { fTarget := 100001, speed := .fast, ssH := 470, ssL := 530, fsH := 470, fsL := 530, intrMask := 0,
        rxTl := none, txTl := none } := by
  decide

/-- V8.7 and V5.4. -/
theorem test_tarValue :
    tarValue 0x50 false = 0x50#32 ∧ tarValue 0x3FF true = 0x13FF#32 ∧ tarValue 0x50 true = 0x1050#32 := by
  decide

/-- V8.8. -/
theorem test_conValue : conValue .standard = 0x63#32 ∧ conValue .fast = 0x65#32 := by decide

/-- V5.2 to V5.4: the validity of R88, with no MAX_LEN and with one. -/
theorem test_executeValid :
    executeValid none 0x50 false [] 0 = false ∧ executeValid none 0x80 false [1#8] 0 = false ∧
      executeValid none 0x7F false [1#8] 0 = true ∧ executeValid none 0x400 true [1#8] 0 = false ∧
      executeValid none 0x3FF true [] 1 = true ∧ executeValid (some 2) 0x50 false [1#8, 2#8] 2 = true ∧
      executeValid (some 2) 0x50 false [] 3 = false := by
  decide

/-! ### Small states -/

/-- Such a controller after reset, its register fields drawn 0. -/
def start : State :=
  State.resetWith params Regs.zero

/-- An enabled controller in master mode at standard speed, with the FIFOs empty: the registers of E0 that matter here
(95_test_vectors.md section 0.5). -/
def on : State :=
  { start with regs := { Regs.zero with con := 0x63#32, enable := 1#32 }, initialized := true }

/-- The field `f` of the next state, if there is one. -/
def after {α : Type} (f : State → α) (o : Outcome) : Option α :=
  match o with
  | .next t => some (f t)
  | .fault _ => none
  | .refused _ => none

/-- A controller serving a request in a phase. -/
def serving (q : Request) (p : Phase) (s : State) : State :=
  { s with
    req := some q
    owner := some 0
    lockOwner := some 0
    rq := s.rq.set 0 (.active q)
    phase := p }

/-! ### One step each: reads (40_register_window.md). The draw is written out where a value is read. -/

/-- V1.12: CON[6:0] = 0x65, bits 31:7 the draw. -/
theorem test_rdCon : Reg.readWith .con 0xFFFFFFFF#32 { on with regs := { on.regs with con := 0x65#32 } } = 0xFFFFFFE5#32 := by
  decide

/-- V1.16: TAR = 0x13FF; bits 11:10 and 31:13 the draw. -/
theorem test_rdTar : Reg.readWith .tar 0xFFFF0000#32 { on with regs := { on.regs with tar := 0x13FF#32 } } = 0xFFFF13FF#32 := by
  decide

/-- R104: ten bits. -/
theorem test_rdSar : Reg.readWith .sar 0xF0000000#32 { on with regs := { on.regs with sar := 0x3FF#32 } } = 0xF00003FF#32 := by
  decide

/-- V1.25: the oldest byte, the rest the draw; the byte is popped. -/
theorem test_rdDataCmd :
    Reg.readWith .dataCmd 0xABCDEF00#32 { on with rxFifo := [0xA5#8, 0x3C#8] } = 0xABCDEFA5#32 ∧
      after (·.rxFifo) (exec .rdDataCmd { on with rxFifo := [0xA5#8, 0x3C#8] }) = some [0x3C#8] := by
  decide

/-- V1.24, V1.20: an empty RX FIFO sets RX_UNDER; a disabled controller faults. -/
theorem test_rdDataCmd_corner :
    after (·.sticky.rxUnder) (exec .rdDataCmd on) = some true ∧
      after (·.faults) (exec .rdDataCmd start) = some [.dataCmdWhileDisabled] := by
  decide

/-- R108 to R114: the four counts come from four different registers. -/
theorem test_rdCounts :
    let s := { on with regs := { on.regs with ssHcnt := 470#32, ssLcnt := 530#32, fsHcnt := 117#32, fsLcnt := 133#32 } }
    [Reg.ssHcnt, .ssLcnt, .fsHcnt, .fsLcnt].map (fun r => r.readWith 0xFFFF0000#32 s) =
      [0xFFFF01D6#32, 0xFFFF0212#32, 0xFFFF0075#32, 0xFFFF0085#32] := by
  decide

/-- V1.37, V1.38: TX_EMPTY alone, then TX_EMPTY and RX_FULL; masked and raw. -/
theorem test_rdInterrupts :
    Reg.readWith .rawIntrStat 0#32 on = 0b10000#32 ∧
      Reg.readWith .rawIntrStat 0#32 { on with rxFifo := [0x11#8] } = 0b10100#32 ∧
      Reg.readWith .intrStat 0#32 { on with rxFifo := [0x11#8] } = 0#32 ∧
      Reg.readWith .intrStat 0xFFFFFFE0#32 { on with regs := { on.regs with intrMask := 0x1F#32 } } = 0xFFFFFFF0#32 ∧
      State.irq { on with regs := { on.regs with intrMask := 0x1F#32 } } = true ∧ State.irq on = false := by
  decide

/-- V1.40, V1.41: the thresholds of R29. -/
theorem test_thresholds :
    let tx (n : Nat) : State :=
      { on with regs := { on.regs with txTl := 2#32 }, txFifo := List.replicate n { cmd := false, dat := 0#8 } }
    let rx (n : Nat) : State := { on with regs := { on.regs with rxTl := 3#32 }, rxFifo := List.replicate n 0#8 }
    (tx 3).txEmpty = false ∧ (tx 2).txEmpty = true ∧ (rx 3).rxFull = false ∧ (rx 4).rxFull = true := by
  decide

/-- R117, R120, R122, R125: which register each read returns. -/
theorem test_rdStored :
    let s := { on with regs := { on.regs with intrMask := 0x15#32, rxTl := 0x81#32, txTl := 0x42#32 } }
    [Reg.intrMask, .rxTl, .txTl, .enable].map (fun r => r.readWith 0x80000000#32 s) =
      [0x80000015#32, 0x80000081#32, 0x80000042#32, 0x80000001#32] := by
  decide

/-- V1.39: a CLR_INTR read clears the sticky bits. -/
theorem test_rdClrIntr :
    after (·.sticky) (exec .rdClrIntr { on with sticky := { rxUnder := true, rxOver := true, txOver := true } }) =
      some { rxUnder := false, rxOver := false, txOver := false } := by
  decide

/-- V1.45: `s(0, 1, 0)`, and `s(1, 1, 1)` with the bus not yet released and a byte received. -/
theorem test_rdStatus :
    Reg.readWith .status 0#32 on = 0b0010#32 ∧
      Reg.readWith .status 4#32 { on with wire := { inflight := none, busBusy := true }, rxFifo := [0x22#8] } =
        0b1111#32 := by
  decide

/-- V1.46: the levels. -/
theorem test_rdLevels :
    let s := { on with txFifo := [{ cmd := false, dat := 0x1A#8 }, { cmd := true, dat := 0#8 }], rxFifo := [0xA5#8] }
    Reg.readWith .txflr 0xABCD0000#32 s = 0xABCD0002#32 ∧ Reg.readWith .rxflr 0#32 s = 1#32 := by
  decide

/-- A read is recorded with the value returned (R52, R60). -/
theorem test_rd_recorded :
    after (fun t => t.hist == [.regRead 0x04 t.rdata]) (exec .rdTar { on with hist := [] }) = some true := by
  simp [after, exec, execRdTar, runRead, whenRunning, memRead, Reg.readFault, Reg.readEffect, State.record, on,
    start, State.resetWith, Reg.offset]

/-! ### Writes -/

/-- V1.9, V1.11, V1.12. -/
theorem test_wrCon :
    after (·.faults) (exec (.wrCon 0x67#32) on) = some [.conWhileEnabled] ∧
      after (·.faults) (exec (.wrCon 0x67#32) start) = some [.badSpeed] ∧
      after (·.faults) (exec (.wrCon 0x61#32) start) = some [.badSpeed] ∧
      after (·.regs.con) (exec (.wrCon 0x65#32) start) = some 0x65#32 := by
  decide

/-- V1.14 and V1.16. -/
theorem test_wrTar :
    after (·.faults) (exec (.wrTar 0x50#32) { on with txFifo := [{ cmd := false, dat := 0x10#8 }] }) =
        some [.tarWhileActive] ∧
      after (·.regs.tar) (exec (.wrTar 0x13FF#32) on) = some 0x13FF#32 := by
  decide

/-- V1.18, V1.19. -/
theorem test_wrSar :
    after (·.faults) (exec (.wrSar 0x55#32) on) = some [.sarWhileEnabled] ∧
      after (·.faults) (exec (.wrSar 0x400#32) start) = some [.reservedBits] ∧
      after (·.regs.sar) (exec (.wrSar 0x3FF#32) start) = some 0x3FF#32 := by
  decide

/-- V1.22, and V1.21 with V1.20: the reserved-bit check comes before the disabled one. -/
theorem test_wrDataCmd :
    after (·.txFifo) (exec (.wrDataCmd 0x1FF#32) on) = some [{ cmd := true, dat := 0xFF#8 }] ∧
      after (·.faults) (exec (.wrDataCmd 0x10#32) start) = some [.dataCmdWhileDisabled] ∧
      after (·.faults) (exec (.wrDataCmd 0x200#32) start) = some [.reservedBits] := by
  decide

/-- V1.23, at TX_DEPTH = 1: a push to a full FIFO is dropped and sets TX_OVER. -/
theorem test_wrDataCmd_full :
    let t := { cmd := false, dat := 0x01#8 }
    (pushToken 1 { on with txFifo := [t] } { cmd := false, dat := 0x77#8 }).txFifo = [t] ∧
      (pushToken 1 { on with txFifo := [t] } { cmd := false, dat := 0x77#8 }).sticky.txOver = true := by
  decide

/-- V1.26, V1.28: each count write, enabled and disabled. -/
theorem test_wrCounts :
    after (·.faults) (exec (.wrSsHcnt 470#32) on) = some [.timingWhileEnabled] ∧
      after (·.regs.ssHcnt) (exec (.wrSsHcnt 0xFFFF#32) start) = some 0xFFFF#32 ∧
      after (·.regs.ssLcnt) (exec (.wrSsLcnt 530#32) start) = some 530#32 ∧
      after (·.regs.fsHcnt) (exec (.wrFsHcnt 117#32) start) = some 117#32 ∧
      after (·.regs.fsLcnt) (exec (.wrFsLcnt 133#32) start) = some 133#32 := by
  decide

/-- V1.36, V1.42. -/
theorem test_wrMaskAndThresholds :
    after (·.regs.intrMask) (exec (.wrIntrMask 0x1F#32) on) = some 0x1F#32 ∧
      after (·.regs.rxTl) (exec (.wrRxTl 0xFF#32) on) = some 0xFF#32 ∧
      after (·.regs.txTl) (exec (.wrTxTl 0x07#32) on) = some 0x07#32 ∧
      after (·.faults) (exec (.wrTxTl 0x100#32) on) = some [.reservedBits] := by
  decide

/-- V1.31, V1.32: disabling an active bus faults; disabling an idle one discards the stale byte and records Flush first. -/
theorem test_wrEnable :
    after (·.faults) (exec (.wrEnable 0#32) { on with wire := { inflight := none, busBusy := true } }) =
        some [.disableWhileActive] ∧
      after (fun t => (t.regs.enable, t.rxFifo, t.hist)) (exec (.wrEnable 0#32) { on with rxFifo := [0x7E#8] }) =
        some (0#32, [], [.flush, .regWrite 0x6C 0#32]) := by
  decide

/-! ### The wire agent -/

/-- V2.2: W_SEND. -/
theorem test_wtok :
    after (fun t => (t.wire, t.hist))
        (exec (.wtok 0x10#8) { on with
          regs := { on.regs with tar := 0x50#32 },
          wire := { inflight := some { cmd := false, dat := 0x10#8 }, busBusy := true } }) =
      some ({ inflight := none, busBusy := true }, [.wTx 0x50#10 0x10#8]) := by
  decide

/-- V2.4, V2.3 with the oracle's answer written out: W_RECV at a 10-bit target. -/
theorem test_rtok :
    let s := { on with
      regs := { on.regs with tar := 0x13FF#32 },
      wire := { inflight := some { cmd := true, dat := 0#8 }, busBusy := true } }
    (receive 0xFF#8 s).rxFifo = [0xFF#8] ∧ (receive 0xFF#8 s).hist = [.wRx 0x3FF#10 0xFF#8] ∧
      recvEnabled 4 0#8 s = true ∧ recvEnabled 4 0#8 { s with rxFifo := [1#8, 2#8, 3#8, 4#8] } = false := by
  decide

/-- V2.5: with TEN_BIT 0 the target is TAR bits 6:0; V2.1: the first take records WStart. -/
theorem test_wireTake :
    after (fun t => (t.txFifo, t.wire.busBusy, t.hist))
        (step { on with
          regs := { on.regs with tar := 0x0D0#32 }, txFifo := [{ cmd := false, dat := 1#8 }], sched := [.wTake] }) =
      some ([], true, [.wStart 0x50#10]) := by
  decide

/-- V2.7 and V2.8: W_END and W_ABORT. -/
theorem test_wireEndAbort :
    after (fun t => (t.wire, t.hist))
        (step { on with wire := { inflight := none, busBusy := true }, sched := [.wEnd] }) =
        some ({ inflight := none, busBusy := false }, [.wStop]) ∧
      after (fun t => (t.txFifo, t.wire, t.hist))
        (step { on with
          txFifo := [{ cmd := false, dat := 0x22#8 }],
          wire := { inflight := some { cmd := false, dat := 0x21#8 }, busBusy := true },
          sched := [.wAbort] }) =
        some ([], { inflight := none, busBusy := true }, [.wAbort]) := by
  decide

/-- V2.10: in slave mode the wire agent has no step. -/
theorem test_wire_needs_masterMode :
    after (fun t => (t.txFifo.length, t.hist))
        (step { on with
          regs := { on.regs with con := 0x62#32 }, txFifo := [{ cmd := false, dat := 1#8 }], sched := [.wTake] }) =
      some (1, []) := by
  decide

/-! ### The engine -/

/-- V4.3, V4.4: the lifecycle check comes first; V4.5: then the frequency. -/
theorem test_init :
    after (·.result) (exec (.init 0) (serving (.init 0) .validate on)) =
        some (some (.err .alreadyInitialized none)) ∧
      after (·.result) (exec (.init 0) (serving (.init 0) .validate start)) =
        some (some (.err .invalidArgument none)) := by
  decide

/-- V4.1's validation at F_IN = 100 MHz (P1, step 1). -/
theorem test_init_valid :
    (validateInit params 100000 (serving (.init 100000) .validate start)).ncfg =
        some (cfgOf params 100000) ∧
      (validateInit params 100000 (serving (.init 100000) .validate start)).phase = .cfgDisable := by
  decide

/-- P1 step 9: CFG_ENABLE commits. -/
theorem test_cfgEnable :
    after (fun t => (t.regs.enable, t.initialized, t.result, t.phase))
        (exec (.init 100000) (serving (.init 100000) .cfgEnable start)) =
      some (1#32, true, some (.ok []), .done) := by
  decide

/-- V4.6, V4.7: SET_SPEED's errors. -/
theorem test_setSpeed :
    after (·.result) (exec (.setSpeed 0) (serving (.setSpeed 0) .validate start)) =
        some (some (.err .notInitialized none)) ∧
      after (·.result) (exec (.setSpeed 0) (serving (.setSpeed 0) .validate on)) =
        some (some (.err .invalidArgument none)) := by
  decide

/-- V5.1, V5.3: EXECUTE's errors. -/
theorem test_execute_errors :
    after (·.result) (exec (.execute 0x50 false [] 0) (serving (.execute 0x50 false [] 0) .validate start)) =
        some (some (.err .notInitialized none)) ∧
      after (·.result) (exec (.execute 0x80 false [1#8] 0) (serving (.execute 0x80 false [1#8] 0) .validate on)) =
        some (some (.err .invalidArgument none)) := by
  decide

/-- V5.4's TAR write, and P2's second push of a write-only transfer (V5.13). -/
theorem test_execute_steps :
    after (fun t => (t.regs.tar, t.phase))
        (exec (.execute 0x3FF true [1#8] 0) (serving (.execute 0x3FF true [1#8] 0) .addressSet on)) =
        some (0x13FF#32, .wrPoll) ∧
      after (fun t => (t.txFifo, t.phase, t.result))
        (exec (.execute 0x50 false [0x10#8, 0x5A#8] 0)
          { serving (.execute 0x50 false [0x10#8, 0x5A#8] 0) .wrPush on with idx := 1 }) =
        some ([{ cmd := false, dat := 0x5A#8 }], .done, some (.ok [])) := by
  decide

/-- V5.11's last poll at N_FIFO = 3: the fourth failed read times out with the info of R242. -/
theorem test_poll_timeout :
    let s := { serving (.execute 0x50 false [0#8] 2) .rdPollRx on with idx := 1, rbuf := [0x11#8], cnt := 3 }
    (pollAfter 3 .rx readsRxByte .rdPop 0b0011#32 s).result =
        some (.err .timeout (some { wait := .rx, phase := .rdPollRx, idx := 1, bytesRead := [0x11#8] })) ∧
      (pollAfter 3 .rx readsRxByte .rdPop 0b0011#32 { s with cnt := 2 }).cnt = 3 ∧
      (pollAfter 3 .rx readsRxByte .rdPop 0b1011#32 s).phase = .rdPop := by
  decide

/-! ### The lock and the requesters -/

/-- V6.1 to V6.4 on the grant order: FIFO takes the oldest waiter only. -/
theorem test_mayGrant :
    mayGrant .any 1 { on with waitQ := [0, 1] } = true ∧ mayGrant .fifo 1 { on with waitQ := [0, 1] } = false ∧
      mayGrant .fifo 0 { on with waitQ := [0, 1] } = true := by
  decide

/-- V7.3, V7.4: the helpers' expansions. -/
theorem test_expandHelper :
    expandHelper 0x50#7 (.readBlock 0x01#8 3) = .ok (.execute 0x50 false [0x01#8] 3) ∧
      expandHelper 0x50#7 (.readBlock 0x00#8 0) = .error (.err .invalidArgument none) ∧
      expandHelper 0x50#7 (.writeBlock 0x20#8 [1#8, 2#8]) = .ok (.execute 0x50 false [0x20#8, 1#8, 2#8] 0) ∧
      expandHelper 0x50#7 (.writeRegister 0x10#8 0x5A#8) = .ok (.execute 0x50 false [0x10#8, 0x5A#8] 0) := by
  decide

/-- The codes of R241 and R245. -/
theorem test_codes :
    ErrCode.timeout.code = 1 ∧ ErrCode.ioFailure.code = 7 ∧ FaultReason.unmapped.code = 1 ∧
      FaultReason.disableWhileActive.code = 11 := by
  decide

/-- V1.47, V6.6: a faulted controller stops by name. -/
theorem test_faulted :
    step { on with faults := [.conWhileEnabled], sched := [.grant 0] } = .fault .controllerFaulted := by
  rfl

/-- V1.1, V1.5 through a step: a 16-bit access, and the alignment check before the read-only one. -/
theorem test_access_faults :
    after (·.faults) (step { on with sched := [.access { we := false, width := 16, off := 0, value := 0 }] }) =
        some [.badAccess] ∧
      after (·.faults) (step { on with sched := [.access { we := true, width := 32, off := 0x72, value := 0 }] }) =
        some [.badAccess] := by
  decide

/-! ### Witnesses: for each obligation with hypotheses, states and operands that meet all of them, clause by clause -/

/-- A token of the tests. -/
def tok : Token :=
  { cmd := false, dat := 0x10#8 }

/-- `on` with the bus not yet released. -/
def busy : State :=
  { on with wire := { inflight := none, busBusy := true } }

/-- `on` with the TX FIFO full, whatever its depth. -/
def full : State :=
  { on with txFifo := List.replicate 4 tok }

theorem on_enabled : on.regs.enable.getLsbD 0 = true := by decide
theorem on_master : on.regs.con.getLsbD 0 = true := by decide
theorem reset_disabled : start.regs.enable.getLsbD 0 = false := by decide

/-- A request granted to requester 0 right after reset, the engine's step next. -/
def granted (q : Request) : State :=
  { serving q .validate start with sched := [.engine] }

/-- R100 to R129 (the reads' hypotheses): the state after reset meets them. -/
theorem witness_reads : start.faults = [] ∧ start.mapped = true := by decide

/-- DataCmdRead, its three clauses. -/
theorem witness_DataCmdRead :
    (on.faults = [] ∧ on.mapped = true ∧ on.regs.enable.getLsbD 0 = true ∧ on.rxFifo = []) ∧
      (∃ s : State, s.faults = [] ∧ s.mapped = true ∧ s.regs.enable.getLsbD 0 = true ∧ s.rxFifo = 0xA5#8 :: []) ∧
      (start.faults = [] ∧ start.mapped = true ∧ start.regs.enable.getLsbD 0 = false) :=
  ⟨by decide, ⟨{ on with rxFifo := [0xA5#8] }, by decide⟩, by decide⟩

/-- ControlWrite: enabled; SPEED 0 and SPEED 3; SPEED 1 and SPEED 2, at the values next to the reserved bits. -/
theorem witness_ControlWrite :
    (on.faults = [] ∧ on.mapped = true ∧ 0x7F#32 &&& 0xFFFFFF80#32 = 0#32 ∧ on.regs.enable.getLsbD 0 = true) ∧
      (start.regs.enable.getLsbD 0 = false ∧ (0x61#32).extractLsb' 1 2 = 0#2 ∧
        (0x67#32).extractLsb' 1 2 = 3#2 ∧ 0x67#32 &&& 0xFFFFFF80#32 = 0#32) ∧
      ((0x7B#32).extractLsb' 1 2 = 1#2 ∧ (0x7D#32).extractLsb' 1 2 = 2#2 ∧ 0x7D#32 &&& 0xFFFFFF80#32 = 0#32) := by
  decide

/-- TargetWrite: active by each of its three causes, and idle; the largest value. -/
theorem witness_TargetWrite :
    0x13FF#32 &&& 0xFFFFEC00#32 = 0#32 ∧ (busy.faults = [] ∧ busy.mapped = true ∧ busy.wire.busBusy = true) ∧
      ({ on with txFifo := [tok] } : State).txFifo ≠ [] ∧
      ({ on with wire := { inflight := some tok, busBusy := true } } : State).wire.inflight ≠ none ∧
      (on.faults = [] ∧ on.mapped = true ∧ on.txFifo = [] ∧ on.wire.inflight = none ∧ on.wire.busBusy = false) := by
  decide

/-- SlaveAddressWrite, both clauses. -/
theorem witness_SlaveAddressWrite :
    0x3FF#32 &&& 0xFFFFFC00#32 = 0#32 ∧ on.regs.enable.getLsbD 0 = true ∧
      start.regs.enable.getLsbD 0 = false ∧ on.faults = [] ∧ on.mapped = true := by
  decide

/-- DataCmdWrite: room, full, disabled. -/
theorem witness_DataCmdWrite :
    0x1FF#32 &&& 0xFFFFFE00#32 = 0#32 ∧
      (on.faults = [] ∧ on.mapped = true ∧ on.regs.enable.getLsbD 0 = true ∧ on.txFifo.length < 4) ∧
      (full.faults = [] ∧ full.mapped = true ∧ full.regs.enable.getLsbD 0 = true ∧
        full.txFifo.length ≥ 4) ∧
      start.regs.enable.getLsbD 0 = false :=
  ⟨by decide, ⟨rfl, rfl, by decide, Nat.succ_pos _⟩, ⟨rfl, rfl, by decide, by simp [full]⟩, by decide⟩

/-- ClockCountWrites: enabled; active while disabled (a state no run reaches, R130); disabled and idle. -/
theorem witness_ClockCountWrites :
    0xFFFF#32 &&& 0xFFFF0000#32 = 0#32 ∧ on.regs.enable.getLsbD 0 = true ∧
      ({ start with txFifo := [tok] } : State).txFifo ≠ [] ∧
      (start.faults = [] ∧ start.mapped = true ∧ start.regs.enable.getLsbD 0 = false ∧
        start.txFifo = [] ∧ start.wire.inflight = none ∧ start.wire.busBusy = false) := by
  decide

/-- MaskAndThresholdWrites: the largest values. -/
theorem witness_MaskAndThresholdWrites :
    0x1F#32 &&& 0xFFFFFFE0#32 = 0#32 ∧ 0xFF#32 &&& 0xFFFFFF00#32 = 0#32 ∧ on.faults = [] ∧ on.mapped = true := by
  decide

/-- EnableWrite: active while enabled; idle while enabled; disabled. -/
theorem witness_EnableWrite :
    (busy.faults = [] ∧ busy.mapped = true ∧ busy.regs.enable.getLsbD 0 = true ∧ busy.wire.busBusy = true) ∧
      (on.txFifo = [] ∧ on.wire.inflight = none ∧ on.wire.busBusy = false) ∧
      start.regs.enable.getLsbD 0 = false := by
  decide

/-- ReservedBitsFault: the lowest reserved bit of every register, and no reserved bit. -/
theorem witness_ReservedBitsFault :
    (∀ p ∈ reservedBitsOf, 0x80000000#32 &&& p.2 ≠ 0#32 ∧ 0#32 &&& p.2 = 0#32) ∧
      [0x80#32, 0x400#32, 0x400#32, 0x200#32, 0x10000#32, 0x10000#32, 0x10000#32, 0x10000#32, 0x20#32, 0x100#32,
        0x100#32, 2#32].zipWith (fun v (p : (Word → Instr) × Word) => v &&& p.2) reservedBitsOf =
      [0x80#32, 0x400#32, 0x400#32, 0x200#32, 0x10000#32, 0x10000#32, 0x10000#32, 0x10000#32, 0x20#32, 0x100#32,
        0x100#32, 2#32] :=
  ⟨by decide, by decide⟩

/-- UnmappedAccessFault: a read, a write, and any access of another driver. -/
theorem witness_UnmappedAccessFault :
    isAccess .rdCon = true ∧ isAccess (.wrCon 0#32) = true ∧
      ∀ a : BusAccess, ∃ s : State, s.faults = [] ∧ s.mapped = false ∧ s.sched = .access a :: [] :=
  ⟨rfl, rfl, fun a => ⟨{ on with mapped := false, sched := [.access a] }, rfl, rfl, rfl⟩⟩

/-- AccessOutcomes: the first and the last register of R89's table read, and the first and the last written. -/
theorem witness_AccessOutcomes :
    on.faults = [] ∧ encode .rdCon = .reg 0x0000#13 0 ∧ encode .rdRxflr = .reg 0x0078#13 0 ∧
      encode (.wrCon 0x63#32) = .reg 0x1000#13 0x63#32 ∧ encode (.wrEnable 0#32) = .reg 0x106C#13 0#32 := by
  decide

/-- IllegalAccessFaults: each way to be no access of a register, and each read-only register written. -/
theorem witness_IllegalAccessFaults :
    ∃ s : BusAccess → State, (∀ a, (s a).faults = [] ∧ (s a).mapped = true ∧ (s a).sched = .access a :: []) ∧
      (∃ a : BusAccess, a.width ≠ 32) ∧ (∃ a : BusAccess, a.width = 32 ∧ a.off % 4 ≠ 0) ∧
      (∃ a : BusAccess, a.width = 32 ∧ a.off % 4 = 0 ∧ a.off = 0x7C) ∧
      ∃ a : BusAccess, a.width = 32 ∧ a.we = true ∧ a.off = 0x70 :=
  ⟨fun a => { on with sched := [.access a] }, fun _ => ⟨rfl, rfl, rfl⟩,
    ⟨{ we := false, width := 16, off := 0, value := 0 }, by decide⟩,
    ⟨{ we := false, width := 32, off := 2, value := 0 }, by decide⟩,
    ⟨{ we := false, width := 32, off := 0x7C, value := 0 }, by decide⟩,
    ⟨{ we := true, width := 32, off := 0x70, value := 0 }, by decide⟩⟩

/-- FaultedControllerStops. -/
theorem witness_FaultedControllerStops : ({ on with faults := [.badSpeed] } : State).faults ≠ [] := by decide

/-- WriteTokenCompletes: enabled, and held back by each of its three conditions. -/
theorem witness_WriteTokenCompletes :
    (∃ s : State, s.faults = [] ∧ s.regs.enable.getLsbD 0 = true ∧ s.regs.con.getLsbD 0 = true ∧
      s.wire.inflight = some { cmd := false, dat := 0xFF#8 }) ∧
      start.regs.enable.getLsbD 0 = false ∧ start.regs.con.getLsbD 0 = false ∧
      on.wire.inflight ≠ some { cmd := false, dat := 0#8 } :=
  ⟨⟨{ on with wire := { inflight := some { cmd := false, dat := 0xFF#8 }, busBusy := true } }, by decide⟩, by decide⟩

/-- ReadTokenCompletes: enabled, and held back by a full RX FIFO. -/
theorem witness_ReadTokenCompletes :
    (∃ s : State, s.faults = [] ∧ s.regs.enable.getLsbD 0 = true ∧ s.regs.con.getLsbD 0 = true ∧
      s.wire.inflight = some { cmd := true, dat := 0xFF#8 } ∧ s.rxFifo.length < 4) ∧
      ∃ s : State, s.faults = [] ∧ s.rxFifo.length ≥ 4 :=
  ⟨⟨{ on with wire := { inflight := some { cmd := true, dat := 0xFF#8 }, busBusy := true } }, rfl, by decide,
      by decide, rfl, Nat.succ_pos _⟩,
    ⟨{ on with rxFifo := List.replicate 4 0#8 }, rfl, by simp⟩⟩

/-- WireTakesOldestToken: an idle bus and a busy one. -/
theorem witness_WireTakesOldestToken :
    ∀ b : Bool, ∃ s : State, s.faults = [] ∧ s.sched = .wTake :: [] ∧ s.regs.enable.getLsbD 0 = true ∧
      s.regs.con.getLsbD 0 = true ∧ s.wire.inflight = none ∧ s.txFifo = tok :: [] ∧ s.wire.busBusy = b :=
  fun b => ⟨{ on with txFifo := [tok], wire := { inflight := none, busBusy := b }, sched := [.wTake] },
    rfl, rfl, on_enabled, on_master, rfl, rfl, rfl⟩

/-- `on` where nothing is aborted (R169). -/
def calm : State :=
  { on with params := { params with mayAbort := false } }

/-- WireEndsAndAborts: an end; an abort of a queued token and of one in flight, and a controller that never aborts. -/
theorem witness_WireEndsAndAborts :
    (∃ s : State, s.faults = [] ∧ s.regs.enable.getLsbD 0 = true ∧ s.regs.con.getLsbD 0 = true ∧
      s.sched = .wEnd :: [] ∧ s.wire.busBusy = true ∧ s.wire.inflight = none ∧ s.txFifo = []) ∧
      (∃ s : State, s.faults = [] ∧ s.sched = .wAbort :: [] ∧ s.params.mayAbort = true ∧ s.wire.inflight ≠ none) ∧
      (∃ s : State, s.faults = [] ∧ s.sched = .wAbort :: [] ∧ s.params.mayAbort = true ∧ s.txFifo ≠ []) ∧
      ∃ s : State, s.faults = [] ∧ s.sched = .wAbort :: [] ∧ s.params.mayAbort = false ∧ s.txFifo ≠ [] :=
  ⟨⟨{ busy with sched := [.wEnd] }, rfl, by decide, by decide, rfl, rfl, rfl, rfl⟩,
    ⟨{ on with wire := { inflight := some tok, busBusy := true }, sched := [.wAbort] }, rfl, rfl, rfl, by decide⟩,
    ⟨{ on with txFifo := [tok], sched := [.wAbort] }, rfl, rfl, rfl, by decide⟩,
    ⟨{ calm with txFifo := [tok], sched := [.wAbort] }, rfl, rfl, rfl, by decide⟩⟩

/-- WireTakesOldestToken and WireEndsAndAborts where they hold: each of their conditions not met, alone. -/
theorem witness_wireHolds :
    (∀ m : Move, ∃ s : State, s.faults = [] ∧ s.sched = m :: [] ∧ s.regs.enable.getLsbD 0 = false) ∧
      (∀ m : Move, ∃ s : State, s.faults = [] ∧ s.sched = m :: [] ∧ s.regs.enable.getLsbD 0 = true ∧
        s.regs.con.getLsbD 0 = false) ∧
      (∀ m : Move, ∃ s : State, s.faults = [] ∧ s.sched = m :: [] ∧ s.txFifo ≠ [] ∧ s.wire.inflight ≠ none) ∧
      ∀ m : Move, ∃ s : State, s.faults = [] ∧ s.sched = m :: [] ∧ s.txFifo = [] ∧ s.wire.inflight = none ∧
        s.wire.busBusy = false :=
  ⟨fun m => ⟨{ start with sched := [m] }, rfl, rfl, reset_disabled⟩,
    fun m => ⟨{ start with sched := [m], regs := { Regs.zero with enable := 1#32 } }, rfl, rfl,
      show (1#32).getLsbD 0 = true by decide, show (0#32).getLsbD 0 = false by decide⟩,
    fun m => ⟨{ on with sched := [m], txFifo := [tok], wire := { inflight := some tok, busBusy := true } }, rfl, rfl,
      by simp, by simp⟩,
    fun m => ⟨{ on with sched := [m] }, rfl, rfl, rfl, rfl, rfl⟩⟩

/-- WireAgentFrame: a wire move that answers a next state, enabled and not. -/
theorem witness_WireAgentFrame :
    Move.wire .wEnd = true ∧ busy.faults = [] ∧ WireMoveEnabled .wEnd busy ∧ ¬WireMoveEnabled .wEnd start ∧
      (∃ t, step { busy with sched := [.wEnd] } = .next t) ∧
      (∃ t, step { start with sched := [.wEnd] } = .next t) ∧ start.regs.enable.getLsbD 0 = false :=
  ⟨rfl, rfl, ⟨by decide, rfl, rfl, rfl⟩, fun h => absurd h.1 (by decide), ⟨_, rfl⟩, ⟨_, rfl⟩, by decide⟩

/-- InitValidation: initialized; not, with a frequency that is refused and one that is accepted (V3.17). -/
theorem witness_InitValidation :
    (∃ s : State, s.faults = [] ∧ s.phase = .validate ∧ s.req = some (.init 0) ∧ s.initialized = true) ∧
      (∃ s : State, s.faults = [] ∧ s.phase = .validate ∧ s.req = some (.init 0) ∧ s.initialized = false ∧
        freqOk s.params 0 = false) ∧
      ∃ s : State, s.faults = [] ∧ s.phase = .validate ∧ s.req = some (.init 400000) ∧ s.initialized = false ∧
        freqOk s.params 400000 = true :=
  ⟨⟨serving (.init 0) .validate on, rfl, rfl, rfl, rfl⟩, ⟨granted (.init 0), rfl, rfl, rfl, rfl, rfl⟩,
    ⟨granted (.init 400000), rfl, rfl, rfl, rfl, by decide⟩⟩

/-- SetSpeedValidation: not initialized; initialized, with a frequency that is refused and one that is accepted. -/
theorem witness_SetSpeedValidation :
    (∃ s : State, s.faults = [] ∧ s.phase = .validate ∧ s.req = some (.setSpeed 0) ∧ s.initialized = false) ∧
      (∃ s : State, s.faults = [] ∧ s.phase = .validate ∧ s.req = some (.setSpeed 400001) ∧ s.initialized = true ∧
        freqOk s.params 400001 = false) ∧
      ∃ s : State, s.faults = [] ∧ s.phase = .validate ∧ s.req = some (.setSpeed 809) ∧ s.initialized = true ∧
        freqOk s.params 809 = true :=
  ⟨⟨granted (.setSpeed 0), rfl, rfl, rfl, rfl⟩,
    ⟨serving (.setSpeed 400001) .validate on, rfl, rfl, rfl, rfl, by decide⟩,
    ⟨serving (.setSpeed 809) .validate on, rfl, rfl, rfl, rfl, by decide⟩⟩

/-- ReconfigurationBrackets: both requests, both phases. -/
theorem witness_ReconfigurationBrackets :
    ∀ i : Instr, i = .init 5 ∨ i = .setSpeed 5 →
      (∃ s : State, servesConfig i s ∧ s.faults = [] ∧ s.mapped = true ∧ s.phase = .cfgDisable ∧ s.txFifo = [] ∧
        s.wire.inflight = none ∧ s.wire.busBusy = false) ∧
      ∃ s : State, servesConfig i s ∧ s.faults = [] ∧ s.mapped = true ∧ s.phase = .cfgEnable := by
  rintro i (rfl | rfl)
  · exact ⟨⟨serving (.init 5) .cfgDisable start, ⟨5, .inl ⟨rfl, rfl⟩⟩, rfl, rfl, rfl, rfl, rfl, rfl⟩,
      ⟨serving (.init 5) .cfgEnable start, ⟨5, .inl ⟨rfl, rfl⟩⟩, rfl, rfl, rfl⟩⟩
  · exact ⟨⟨serving (.setSpeed 5) .cfgDisable start, ⟨5, .inr ⟨rfl, rfl⟩⟩, rfl, rfl, rfl, rfl, rfl, rfl⟩,
      ⟨serving (.setSpeed 5) .cfgEnable start, ⟨5, .inr ⟨rfl, rfl⟩⟩, rfl, rfl, rfl⟩⟩

/-- ReconfigurationWrites: every phase of it. -/
theorem witness_ReconfigurationWrites :
    ∀ p : Phase, ∃ s : State, servesConfig (.init 5) s ∧ s.faults = [] ∧ s.mapped = true ∧
      s.ncfg = some (cfgOf params 400000) ∧ s.regs.enable.getLsbD 0 = false ∧ s.txFifo = [] ∧
      s.wire.inflight = none ∧ s.wire.busBusy = false ∧ s.phase = p :=
  fun p => ⟨{ serving (.init 5) p start with ncfg := some (cfgOf params 400000) },
    ⟨5, .inl ⟨rfl, rfl⟩⟩, rfl, rfl, rfl, reset_disabled, rfl, rfl, rfl, rfl⟩

/-- CountFunctionProperties: the fastest frequency, with a valid pair (V3.9, V3.10), and either kind of COUNT_FN. -/
theorem witness_CountFunctionProperties :
    (0 < params.fIn ∧ params.counts = .byDefault ∧ countsValid (params.countFn 400000) = true ∧
      countsValid (({ params with fIn := 1000000 } : Params).countFn 400000) = true) ∧
      ∃ p : Params, 0 < p.fIn ∧ p.counts = .other 0 :=
  ⟨by decide, { params with counts := .other 0 }, by decide, rfl⟩

/-- ExecuteValidation: not initialized; initialized, with each invalid field of R88 next to the valid value. -/
theorem witness_ExecuteValidation :
    ∀ (a : Nat) (ten : Bool) (w : List Byte) (n : Nat),
      (∃ s : State, s.faults = [] ∧ s.phase = .validate ∧ s.req = some (.execute a ten w n) ∧
        s.initialized = false) ∧
      (∃ s : State, s.faults = [] ∧ s.phase = .validate ∧ s.req = some (.execute a ten w n) ∧
        s.initialized = true) ∧
      (([] : List Byte).length + 0 = 0 ∧ 0x80 > 0x7F ∧ 0x400 > 0x3FF) :=
  fun a ten w n => ⟨⟨granted (.execute a ten w n), rfl, rfl, rfl, rfl⟩,
    ⟨serving (.execute a ten w n) .validate on, rfl, rfl, rfl, rfl⟩, by decide⟩

/-- ExecuteValidation's last clause, without and with a MAX_LEN: one byte to the largest 7-bit address. -/
theorem witness_ExecuteValidation_valid :
    ∀ maxLen : Option Nat, maxLen = none ∨ maxLen = some 1 →
      ¬(([1#8] : List Byte).length + 0 = 0 ∨ (false = false ∧ 0x7F > 0x7F) ∨ (false = true ∧ 0x7F > 0x3FF) ∨
        ∃ m, ({ on with params := { params with maxLen := maxLen } } : State).params.maxLen = some m ∧
          (([1#8] : List Byte).length > m ∨ 0 > m)) := by
  rintro _ (rfl | rfl) <;> simp

/-- PollLoops: every phase that polls; the tested condition true and false; the count below the bound or at it. -/
theorem witness_PollLoops :
    (∀ q p, ∃ s : State, s.faults = [] ∧ s.mapped = true ∧ s.req = some q ∧ s.phase = p) ∧
      (on.txFifo = [] ∧ on.wire.inflight = none ∧ on.wire.busBusy = false) ∧ busy.wire.busBusy ≠ false ∧
      on.txFifo.length < 4 ∧ ¬full.txFifo.length < 4 ∧
      ({ on with rxFifo := [0#8] } : State).rxFifo ≠ [] ∧
      ({ on with cnt := 3 } : State).cnt ≥ on.params.nFifo ∧ on.cnt < 0 + 1 :=
  ⟨fun q p => ⟨serving q p on, rfl, rfl, rfl, rfl⟩, ⟨rfl, rfl, rfl⟩, by decide, Nat.succ_pos _, by simp [full],
    by decide, Nat.le_refl _, by decide⟩

/-- AddressIsSetOnce, at the largest address, with and without write bytes. -/
theorem witness_AddressIsSetOnce :
    ∀ w : List Byte, ∃ s : State, s.faults = [] ∧ s.mapped = true ∧ s.phase = .addressSet ∧
      s.req = some (.execute 0x3FF true w 1) ∧ 0x3FF ≤ 0x3FF ∧ s.txFifo = [] ∧ s.wire.inflight = none ∧
      s.wire.busBusy = false :=
  fun w => ⟨serving (.execute 0x3FF true w 1) .addressSet on, rfl, rfl, rfl, rfl, by decide, rfl, rfl, rfl⟩

/-- WriteBytePush: a byte that is not the last, the last with and without a read phase. -/
theorem witness_WriteBytePush :
    ∀ n, (∃ s : State, s.faults = [] ∧ s.mapped = true ∧ s.phase = .wrPush ∧
      s.req = some (.execute 0x50 false [1#8, 2#8] n) ∧ [1#8, 2#8][s.idx]? = some 1#8 ∧
      s.regs.enable.getLsbD 0 = true ∧ s.txFifo.length < 4 ∧ s.idx + 1 < 2) ∧
      ∃ s : State, s.faults = [] ∧ s.mapped = true ∧ s.phase = .wrPush ∧
        s.req = some (.execute 0x50 false [1#8, 2#8] n) ∧ [1#8, 2#8][s.idx]? = some 2#8 ∧
        s.regs.enable.getLsbD 0 = true ∧ s.txFifo.length < 4 ∧ s.idx + 1 = 2 :=
  fun n => ⟨⟨serving (.execute 0x50 false [1#8, 2#8] n) .wrPush on, rfl, rfl, rfl, rfl, rfl, on_enabled,
      Nat.succ_pos _, (by decide : 0 + 1 < 2)⟩,
    ⟨{ serving (.execute 0x50 false [1#8, 2#8] n) .wrPush on with idx := 1 }, rfl, rfl, rfl, rfl, rfl, on_enabled,
      Nat.succ_pos _, rfl⟩⟩

/-- ReadTokenPush. -/
theorem witness_ReadTokenPush :
    ∃ s : State, s.faults = [] ∧ s.mapped = true ∧ s.phase = .rdPush ∧ s.req = some (.execute 0x50 false [] 1) ∧
      s.regs.enable.getLsbD 0 = true ∧ s.txFifo.length < 4 :=
  ⟨serving (.execute 0x50 false [] 1) .rdPush on, rfl, rfl, rfl, rfl, by decide, Nat.succ_pos _⟩

/-- ReadBytePop: a byte that is not the last, and the last. -/
theorem witness_ReadBytePop :
    ∃ s : State, s.faults = [] ∧ s.mapped = true ∧ s.phase = .rdPop ∧ s.req = some (.execute 0x50 false [] 2) ∧
      s.regs.enable.getLsbD 0 = true ∧ s.rxFifo = 0xA5#8 :: [] ∧ s.idx + 1 < 2 ∧
      ({ s with idx := 1 } : State).idx + 1 ≥ 2 :=
  ⟨{ serving (.execute 0x50 false [] 2) .rdPop on with rxFifo := [0xA5#8] }, rfl, rfl, rfl, rfl, by decide, rfl,
    by decide, by decide⟩

/-- EngineRestsWhenIdleOrDone. -/
theorem witness_EngineRestsWhenIdleOrDone :
    ∀ p : Phase, ∃ s : State, s.faults = [] ∧ s.sched = .engine :: [] ∧ s.phase = p :=
  fun p => ⟨{ serving (.init 5) p start with sched := [.engine] }, rfl, rfl, rfl⟩

/-- ExecuteFrame: a step that writes TAR. -/
theorem witness_ExecuteFrame :
    ∃ t, exec (.execute 0x50 false [1#8] 0) (serving (.execute 0x50 false [1#8] 0) .addressSet on) = .next t ∧
      t.regs.tar = 0x50#32 :=
  ⟨_, rfl, by decide⟩

/-- The requesters' list is not empty (R1: NUM_REQUESTERS ≥ 1). -/
theorem reset_rq_zero (x : RqState) : (start.rq.set 0 x)[0]? = some x := by
  rfl

/-- Every requester is quiet after reset (R53). -/
theorem reset_quiet {r : Nat} {x : RqState} (h : start.rq[r]? = some x) : x = .quiet := by
  simp only [start, State.resetWith] at h
  rw [List.getElem?_replicate] at h
  split at h <;> simp_all

/-- Only requester 0 is active, or waiting, after it alone was given a state. -/
theorem reset_rq_other {r : Nat} {x y : RqState} (hy : y ≠ .quiet) (h : (start.rq.set 0 x)[r]? = some y) :
    r = 0 ∧ y = x := by
  by_cases hr : 0 = r
  · subst hr
    rw [reset_rq_zero] at h
    exact ⟨rfl, (Option.some.inj h).symm⟩
  · rw [List.getElem?_set_ne hr] at h
    exact absurd (reset_quiet h) hy

/-- The lock invariant holds when requester 0 has just been granted a request. -/
theorem granted_lock (q : Request) : LockInvariant (granted q) := by
  refine ⟨fun r => ⟨fun h => ⟨q, ?_⟩, fun ⟨q', h⟩ => ?_⟩, fun r q' h => ?_, ?_⟩
  · have : r = 0 := (Option.some.inj h).symm
    subst this
    exact reset_rq_zero _
  · obtain ⟨rfl, -⟩ := reset_rq_other (by simp) h
    rfl
  · obtain ⟨rfl, h'⟩ := reset_rq_other (by simp) h
    cases h'
    exact ⟨rfl, rfl, by simp [granted, serving]⟩
  · simp [granted, serving]

/-- GrantStep, RequestsAreNotCancelled's first clause, WaitersStayListed and LockInvariantKept: requester 0 waits, alone,
and is granted. -/
theorem witness_GrantStep :
    ∃ s : State, s.faults = [] ∧ s.sched = .grant 0 :: [] ∧ s.lockOwner = none ∧ s.phase = .idle ∧
      s.rq[0]? = some (.waiting (.init 5)) ∧ LockInvariant s ∧ WaitersListed s := by
  refine ⟨{ start with rq := start.rq.set 0 (.waiting (.init 5)), waitQ := [0], sched := [.grant 0] },
    rfl, rfl, rfl, rfl, reset_rq_zero _, ⟨fun r => ⟨fun h => ?_, fun ⟨q, h⟩ => ?_⟩, fun r q h => ?_, ?_⟩, ?_, ?_⟩
  · exact absurd h (by simp [start, State.resetWith])
  · exact absurd (reset_rq_other (by simp) h).2 (by simp)
  · exact absurd (reset_rq_other (by simp) h).2 (by simp)
  · simp [start, State.resetWith]
  · simp
  · intro r
    constructor
    · intro h
      rw [List.mem_singleton.1 h]
      exact ⟨_, reset_rq_zero _⟩
    · rintro ⟨q, h⟩
      exact List.mem_singleton.2 (reset_rq_other (by simp) h).1

/-- GrantStep where LOCK_ORDER is fifo: two requesters wait, and the first of them, or the second, would be granted. -/
theorem witness_GrantStep_fifo :
    ∀ r, r = 0 ∨ r = 1 → ∃ s : State, s.faults = [] ∧ s.sched = .grant r :: [] ∧ s.lockOwner = none ∧ s.phase = .idle ∧
      s.rq[r]? = some (.waiting (.init 5)) ∧ s.params.lockOrder = .fifo ∧ s.waitQ.head? = some 0 := by
  rintro r (rfl | rfl) <;>
    exact ⟨{ start with
      params := { params with lockOrder := .fifo }, rq := [.waiting (.init 5), .waiting (.init 5)], waitQ := [0, 1],
      sched := [.grant _] }, rfl, rfl, rfl, rfl, rfl, rfl, rfl⟩

/-- RequestsAreNotCancelled, LockInvariantKept and WaitersStayListed: a step of the engine in a granted controller. -/
theorem witness_lockSteps : ∃ s t : State, LockInvariant s ∧ WaitersListed s ∧ step s = .next t := by
  refine ⟨granted (.init 5), _, granted_lock _, ⟨by simp [granted, serving, start, State.resetWith], fun r => ?_⟩, rfl⟩
  constructor
  · intro h
    exact absurd h (by simp [granted, serving, start, State.resetWith])
  · rintro ⟨q, h⟩
    exact absurd (reset_rq_other (by simp) h).2 (by simp)

/-- ReleaseStep, and RequestsAreNotCancelled's second clause: the owner is active in each terminal phase. -/
theorem witness_ReleaseStep :
    ∀ p : Phase, ∃ s : State, s.faults = [] ∧ s.sched = .release :: [] ∧ s.phase = p ∧ s.owner = some 0 ∧
      s.result = some (.ok []) ∧ s.rq[0]? = some (.active (.init 5)) :=
  fun p => ⟨{ serving (.init 5) p start with result := some (.ok []), sched := [.release] },
    rfl, rfl, rfl, rfl, rfl, reset_rq_zero _⟩

/-- IssueAndCollect, its clauses; a `read_register` call and one that is not. -/
theorem witness_IssueAndCollect :
    (∀ q : Request, ∃ s : State, s.faults = [] ∧ s.sched = .issue 0 q.record :: [] ∧ s.rq[0]? = some .quiet) ∧
      (∃ (s : State) (rec : ReqRecord), s.faults = [] ∧ s.sched = .issue 0 rec :: [] ∧ rec.kind = 3#2) ∧
      (∃ s : State, s.faults = [] ∧ s.sched = .collect 0 :: [] ∧ s.rq[0]? = some (.returned (.ok [0xA5#8])) ∧
        s.calls[0]? = some (some (.readRegister 0x10#8))) ∧
      ∃ s : State, s.faults = [] ∧ s.sched = .collect 0 :: [] ∧ s.rq[0]? = some (.returned (.ok [0xA5#8])) ∧
        ∀ reg, s.calls[0]? ≠ some (some (.readRegister reg)) :=
  ⟨fun q => ⟨{ start with rq := start.rq.set 0 .quiet, sched := [.issue 0 q.record] }, rfl, rfl,
      reset_rq_zero _⟩,
    ⟨{ start with sched := [.issue 0 (reqRecord 3#2 0)] }, reqRecord 3#2 0, rfl, rfl, rfl⟩,
    ⟨{ start with
      rq := start.rq.set 0 (.returned (.ok [0xA5#8])), calls := [some (.readRegister 0x10#8), none],
      sched := [.collect 0] }, rfl, rfl, reset_rq_zero _, rfl⟩,
    ⟨{ start with rq := start.rq.set 0 (.returned (.ok [0xA5#8])), sched := [.collect 0] }, rfl, rfl,
      reset_rq_zero _, by simp [start, State.resetWith, params]⟩⟩

/-- GrantStep, ReleaseStep and IssueAndCollect where they hold: an engine that serves a request owned by an active
requester, which can be neither granted nor released, and whose requester can neither issue nor collect. -/
theorem witness_lockHolds :
    ∀ m : Move, ∃ s : State, s.faults = [] ∧ s.sched = m :: [] ∧ s.lockOwner ≠ none ∧ s.phase ≠ .idle ∧
      s.phase ≠ .done ∧ s.phase ≠ .timeout ∧ s.phase ≠ .abort ∧ s.rq[0]? ≠ some .quiet ∧
      (∀ q, s.rq[0]? ≠ some (.waiting q)) ∧ ∀ res, s.rq[0]? ≠ some (.returned res) := by
  intro m
  have hr : ({ granted (.init 5) with sched := [m] } : State).rq[0]? = some (.active (.init 5)) := reset_rq_zero _
  refine ⟨{ granted (.init 5) with sched := [m] }, rfl, rfl, by simp [granted, serving], by simp [granted, serving],
    by simp [granted, serving], by simp [granted, serving], by simp [granted, serving], ?_, ?_, ?_⟩ <;>
    simp [hr]

/-- SessionHelperCalls: a quiet requester and each helper scheduled. -/
theorem witness_SessionHelperCalls :
    ∀ h : Helper, ∃ s : State, s.faults = [] ∧ s.rq[0]? = some .quiet ∧ s.sched = .helper 0 0x50#7 h :: [] :=
  fun h => ⟨{ start with rq := start.rq.set 0 .quiet, sched := [.helper 0 0x50#7 h] }, rfl,
    reset_rq_zero _, rfl⟩

/-- The run invariant holds when requester 0 has just been granted a request. -/
theorem granted_run (q : Request) : RunInvariant (granted q) where
  mapped := rfl
  noFault := rfl
  disabledIsIdle := fun _ => ⟨rfl, rfl, rfl, rfl⟩
  fifosFit := ⟨Nat.zero_le _, Nat.zero_le _⟩
  idleBeforeInit := fun _ => ⟨rfl, rfl, rfl, rfl⟩
  enabledAfterInit := fun h => absurd h (by simp [granted, serving, start, State.resetWith])
  disabledWhileProgramming := fun h => absurd h (by simp [granted, serving, Phase.reprogramming])
  masterWhenProgrammed := fun h => absurd h (by simp [granted, serving])
  quietBus := fun h => absurd h (by simp [granted, serving])
  serves := by simp [ServesItsPhase, granted, serving, Phase.configuring, Phase.reprogramming, Phase.transferring]
  roomToPush := fun h => absurd h (by simp [granted, serving])
  byteToPop := fun h => absurd h (by simp [granted, serving])
  pollsCounted := rfl
  resultWhenDone := rfl
  lock := granted_lock q

/-- OwnAgentsNeverFault, TransferTraceKept and ConfigurationStaysConsistent's first clause: the engine's first step of
an EXECUTE. -/
theorem witness_ownAgents :
    ∃ s t : State, RunInvariant s ∧ TransferTrace s ∧ ConfigInvariant s ∧ s.nextMove.own = true ∧ step s = .next t := by
  refine ⟨granted (.execute 0x50 false [1#8] 1), _, granted_run _, ?_, ?_, rfl, rfl⟩
  · intro addr tenBit wdata rlen _ e he
    exact absurd he (by simp [granted, serving, start, State.resetWith, sinceGrant])
  · exact ⟨fun c h => absurd h (by simp [granted, serving, start, State.resetWith]),
      fun c h => absurd h (by simp [granted, serving, start, State.resetWith]),
      fun h => absurd h (by simp [granted, serving, Phase.reprogramming]),
      fun h => absurd h (by simp [granted, serving, start, State.resetWith])⟩

/-- An EXECUTE granted to requester 0 of an enabled controller, at its bus-free wait while the bus is not released. -/
def waiting : State :=
  { granted (.execute 0x50 false [1#8] 0) with
    regs := on.regs, initialized := true, phase := .busWait, wire := { inflight := none, busBusy := true } }

/-- The run invariant holds there. -/
theorem waiting_run : RunInvariant waiting where
  mapped := rfl
  noFault := rfl
  disabledIsIdle := fun h => absurd h (by decide)
  fifosFit := ⟨Nat.zero_le _, Nat.zero_le _⟩
  idleBeforeInit := fun h => absurd h (by decide)
  enabledAfterInit := fun _ _ => ⟨on_enabled, on_master⟩
  disabledWhileProgramming := fun h => absurd h (by decide)
  masterWhenProgrammed := fun h => absurd h (by decide)
  quietBus := fun h => absurd h (by decide)
  serves := ⟨fun h => absurd h (by decide), fun h => absurd h (by decide),
    fun _ => ⟨rfl, .inr ⟨_, _, _, _, rfl, by decide⟩⟩, fun h => absurd h (by decide)⟩
  roomToPush := fun h => absurd h (by decide)
  byteToPop := fun h => absurd h (by decide)
  pollsCounted := Nat.zero_le _
  resultWhenDone := rfl
  lock := by
    have h := granted_lock (.execute 0x50 false [1#8] 0)
    exact ⟨h.1, fun r q hr => ⟨(h.2.1 r q hr).1, (h.2.1 r q hr).2.1, by decide⟩, by simp [waiting, granted, serving]⟩

/-- An EXECUTE of two read bytes, granted to requester 0 of an enabled controller, at its last poll for the second byte,
with the tokens `tx` queued and the wire agent at `w`. -/
def awaiting (tx : List Token) (w : Wire) : State :=
  { granted (.execute 0x50 false [] 2) with
    regs := on.regs, initialized := true, phase := .rdPollRx, idx := 1, cnt := 3, rbuf := [0xA5#8], txFifo := tx, wire := w }

/-- The run invariant holds there. -/
theorem awaiting_run {tx : List Token} (w : Wire) (htx : tx.length ≤ 4) : RunInvariant (awaiting tx w) where
  mapped := rfl
  noFault := rfl
  disabledIsIdle := fun h => Bool.noConfusion (on_enabled.symm.trans h)
  fifosFit := ⟨htx, Nat.zero_le _⟩
  idleBeforeInit := fun h => Bool.noConfusion (show true = false from h)
  enabledAfterInit := fun _ _ => ⟨on_enabled, on_master⟩
  disabledWhileProgramming := fun h => Bool.noConfusion (show false = true from h)
  masterWhenProgrammed := fun h => absurd h (by simp [awaiting])
  quietBus := fun h => absurd h (by simp [awaiting])
  serves := ⟨fun h => Bool.noConfusion (show false = true from h), fun h => Bool.noConfusion (show false = true from h),
    fun h => absurd h (by simp [awaiting]),
    fun _ => ⟨rfl, 0x50, false, [], 2, rfl, fun h => Bool.noConfusion (show false = true from h), fun _ => Nat.one_lt_two,
      fun h => absurd h (by simp [awaiting])⟩⟩
  roomToPush := fun h => absurd h (by simp [awaiting])
  byteToPop := fun h => absurd h (by simp [awaiting])
  pollsCounted := Nat.le_refl 3
  resultWhenDone := rfl
  lock := by
    have h := granted_lock (.execute 0x50 false [] 2)
    exact ⟨h.1, fun r q hr => ⟨(h.2.1 r q hr).1, (h.2.1 r q hr).2.1, by simp [awaiting]⟩,
      by simp [awaiting, granted, serving]⟩

/-- The poll there times out, whatever the undefined bits of STATUS read (R190, R193). -/
theorem awaiting_timesOut (tx : List Token) (w : Wire) :
    ∃ t, step (awaiting tx w) = .next t ∧ t.phase = .timeout ∧ t.txFifo = tx ∧ t.wire = w ∧ t.rxFifo = [] := by
  let s := (awaiting tx w).advance
  have hp : pollAfter 3 .rx readsRxByte .rdPop (Reg.readWith .status s.draw s) (statusRead s) =
      (statusRead s).timeOut .rx := by
    unfold pollAfter
    rw [status_readsRxByte]
    rfl
  have h : step (awaiting tx w) = .next ((statusRead s).timeOut .rx) := (poll_next.2 (.inr ⟨rfl, hp.symm⟩))
  exact ⟨_, h, rfl, rfl, rfl, rfl⟩

/-- The tokens left by a read whose stale byte's token is still in flight (log entry 27): the first byte popped was an
older one, so R189 has pushed the second read token beside it, and the timeout leaves both bytes stale. -/
theorem test_secondReadTimeout :
    let tok : Token := { cmd := true, dat := 0#8 }
    (awaiting [tok] { inflight := some tok, busBusy := true }).staleBytes = 1 ∧
      ∃ t, step (awaiting [tok] { inflight := some tok, busBusy := true }) = .next t ∧ t.staleBytes = 2 := by
  intro tok
  obtain ⟨t, h, hp, ht, hw, hr⟩ := awaiting_timesOut [tok] { inflight := some tok, busBusy := true }
  exact ⟨rfl, t, h, by simp [State.staleBytes, State.unreadBytes, hp, ht, hw, hr, tok]⟩

/-- StaleBytesComeFromReadTimeouts: a read timeout; a step that is none; CFG_DISABLE; a run with its one read timeout,
from where nothing is queued, in flight or unread (the tokens were discarded, R169). -/
theorem witness_StaleBytesComeFromReadTimeouts :
    (∃ s t : State, RunInvariant s ∧ s.nextMove.own = true ∧ step s = .next t ∧ readTimesOut s t = true) ∧
      (∃ s t : State, RunInvariant s ∧ s.nextMove = .engine ∧ s.phase ≠ .cfgDisable ∧ step s = .next t) ∧
      (∃ s t : State, RunInvariant s ∧ s.nextMove = .engine ∧ s.phase = .cfgDisable ∧ step s = .next t) ∧
      ∃ (ms : List Move) (s t : State), RunInvariant s ∧ SerialIdle s ∧ (∀ m ∈ ms, m.own = true) ∧
        runMoves ms s = .next t ∧ readTimeouts ms s = 1 := by
  have hrun := awaiting_run (tx := []) { inflight := none, busBusy := false } (Nat.zero_le _)
  obtain ⟨t, h, hp, -⟩ := awaiting_timesOut [] { inflight := none, busBusy := false }
  have ho : readTimesOut (awaiting [] { inflight := none, busBusy := false }) t = true := by
    simp [readTimesOut, hp, awaiting]
  have g := granted_run (.init 5)
  have gl := granted_lock (.init 5)
  refine ⟨⟨_, t, hrun, rfl, h, ho⟩, ⟨granted (.init 5), _, g, rfl, by decide, rfl⟩,
    ⟨{ granted (.init 5) with phase := .cfgDisable, ncfg := some (cfgOf params 100000) }, _,
      { g with
        enabledAfterInit := fun h => absurd h (by decide)
        disabledWhileProgramming := fun h => absurd h (by decide)
        masterWhenProgrammed := fun h => absurd h (by decide)
        quietBus := fun _ => ⟨rfl, rfl, rfl⟩
        serves := ⟨fun _ => ⟨5, .inl rfl⟩, fun _ => by simp, fun h => absurd h (by decide), fun h => absurd h (by decide)⟩
        roomToPush := fun h => absurd h (by decide)
        byteToPop := fun h => absurd h (by decide)
        pollsCounted := rfl
        lock := ⟨gl.1, fun r q hr => ⟨(gl.2.1 r q hr).1, (gl.2.1 r q hr).2.1, by simp⟩,
          by simp [granted, serving]⟩ }, rfl, rfl, rfl⟩,
    [.engine], { awaiting [] { inflight := none, busBusy := false } with sched := [] }, t,
      { hrun with }, ⟨rfl, rfl, rfl, rfl⟩, by decide, runMoves_cons.2 ⟨t, h, rfl⟩, ?_⟩
  have ho' : readTimesOut { awaiting [] { inflight := none, busBusy := false } with sched := [] } t = true := ho
  have h' : step (State.offer .engine { awaiting [] { inflight := none, busBusy := false } with sched := [] }) = .next t := h
  simp [readTimeouts, h', ho']

/-- RequestsEndWithinTheirBound: an engine step of a request; a step of the wire agent and one of a requester; a grant; a
run with as many engine moves as are left; a wait whose condition does not hold. -/
theorem witness_RequestsEndWithinTheirBound :
    (∃ s : State, RunInvariant s ∧ s.nextMove = .engine ∧ s.phase ≠ .idle ∧ s.phase.terminal = false) ∧
      (∀ m, m = .wTake ∨ m = .collect 0 → ∃ s t : State, RunInvariant s ∧ s.nextMove = m ∧ m.own = true ∧ m ≠ .engine ∧
        s.phase ≠ .idle ∧ step s = .next t) ∧
      (∃ s t : State, s.nextMove = .grant 0 ∧ s.rq[0]? = some (.waiting (.init 5)) ∧ s.lockOwner = none ∧
        s.phase = .idle ∧ s.params.lockOrder = .any ∧ step s = .next t) ∧
      (∃ (s t : State) (ms : List Move), RunInvariant s ∧ s.phase ≠ .idle ∧ (∀ m ∈ ms, m.own = true) ∧
        runMoves ms s = .next t ∧ stepsLeft s ≤ ms.count .engine) ∧
      waiting.phase.pollBound waiting.params = some 3 ∧ waiting.activity = true := by
  refine ⟨⟨granted (.init 5), granted_run _, rfl, by decide, rfl⟩, ?_,
    ⟨{ start with rq := start.rq.set 0 (.waiting (.init 5)), waitQ := [0], sched := [.grant 0] }, _, rfl,
      reset_rq_zero _, rfl, rfl, rfl, rfl⟩,
    ⟨granted (.init 0), _, List.replicate 9 .engine, granted_run _, by decide, by decide, rfl, by decide⟩, rfl, by decide⟩
  have h := granted_run (.init 5)
  rintro m (rfl | rfl)
  · exact ⟨{ granted (.init 5) with sched := [.wTake] }, _,
      ⟨h.1, h.2, h.3, h.4, h.5, h.6, h.7, h.8, h.9, h.10, h.11, h.12, h.13, h.14, h.15⟩, rfl, rfl, by decide, by decide, rfl⟩
  · exact ⟨{ granted (.init 5) with sched := [.collect 0] }, _,
      ⟨h.1, h.2, h.3, h.4, h.5, h.6, h.7, h.8, h.9, h.10, h.11, h.12, h.13, h.14, h.15⟩, rfl, rfl, by decide, by decide, rfl⟩

/-- ResetMeetsInvariants: draws that are not zero, with no reserved bit and with one. -/
theorem witness_ResetMeetsInvariants :
    Regs.ReservedClear { Regs.zero with con := 0x7F#32, tar := 0x13FF#32, enable := 1#32 } ∧
      ¬Regs.ReservedClear { Regs.zero with con := 0x80#32 } := by
  unfold Regs.ReservedClear
  decide

/-- R170's premises: the run in which a controller that is off is offered the same move for ever meets them. -/
theorem witness_fairness :
    IsRun (fun _ => start) (fun _ => .wEnd) ∧ WeaklyFair (fun _ => start) (fun _ => .wEnd) ∧
      WithinWireBound 1 (fun _ => start) (fun _ => .wEnd) ∧ MeetsWireBound (fun _ => start) (fun _ => .wEnd) := by
  have off : start.wireEnabled = false := by decide
  refine ⟨fun _ => by with_unfolding_all rfl, fun m n h => ?_, fun m n k h _ => ?_, fun b h => ?_⟩
  · exact absurd (h n (le_refl n)).1 (by simp [off])
  · exact absurd (h 0 (Nat.zero_le k)).1 (by simp [off])
  · exact absurd h (by simp [start, State.resetWith, params])

/-- ConfigurationStaysConsistent's second clause: the controller that INIT(400000) configures. -/
theorem witness_ConfigInvariant :
    ∃ s : State, ConfigInvariant s ∧ s.initialized = true ∧ s.phase.reprogramming = false := by
  let c := cfgOf params 400000
  refine ⟨{ on with
    cfg := some c,
    regs := { Regs.zero with
      con := conValue c.speed, ssHcnt := countValue c.ssH, ssLcnt := countValue c.ssL, fsHcnt := countValue c.fsH,
      fsLcnt := countValue c.fsL, enable := 1#32 } }, ⟨?_, ?_, ?_, ?_⟩, rfl, rfl⟩
  · intro c' hc
    cases hc
    exact ⟨by decide, rfl⟩
  · intro c' hc
    exact absurd hc (by simp [on, start, State.resetWith])
  · intro hp
    exact absurd hp (by simp [on, start, State.resetWith, Phase.reprogramming])
  · intro _ _
    exact ⟨c, rfl, rfl, rfl, rfl, rfl, rfl, rfl⟩

/-- FifoInvariantsKept, ReservedBitsStayClear and NothingIsForgotten: a step of another driver from reset. -/
theorem witness_anyAgent :
    ∃ s t : State, DisabledIsIdle s ∧ FifosFit s ∧ ReservedBitsClear s ∧ step s = .next t :=
  ⟨{ start with sched := [.access { we := true, width := 32, off := 0x6C, value := 1#32 }] }, _,
    fun _ => ⟨rfl, rfl, rfl, rfl⟩, ⟨Nat.zero_le _, Nat.zero_le _⟩, by unfold ReservedBitsClear Regs.ReservedClear; decide, rfl⟩

/-- InterruptOutput: a masked controller, and one that raises the output. -/
theorem witness_InterruptOutput :
    on.regs.intrMask.extractLsb' 0 5 = 0#5 ∧
      State.irq { on with regs := { on.regs with intrMask := 0x10#32 } } = true := by
  decide

/-- ControllersAreIndependent: the second of two controllers steps, and there is an instance 0. -/
theorem witness_ControllersAreIndependent :
    ([start, { on with sched := [.wEnd] }] : Platform)[1]? = some { on with sched := [.wEnd] } ∧
      (∃ t, step { on with sched := [.wEnd] } = .next t) ∧ 0 < Config.numControllers :=
  ⟨rfl, ⟨_, rfl⟩, Nat.succ_pos _⟩

/-- FakePeripheralRoundTrip: another peripheral's events may stand between; the first byte and the last of a block. -/
theorem witness_FakePeripheralRoundTrip :
    (∀ e ∈ [Event.wStart 0x51#10, .wTx 0x51#10 1#8, .wStop], ∀ b,
      e ≠ .wStart 0x50#10 ∧ e ≠ .wTx 0x50#10 b ∧ e ≠ .wRx 0x50#10 b) ∧
      [1#8, 2#8].length ≤ 256 ∧ 0 < [1#8, 2#8].length ∧ 1 < [1#8, 2#8].length := by
  decide

/-! #### RoundTripLaws: its premises are about a run, so its witness is one: `write_register(0x10, 0xA5)` and then
`read_register(0x10)`, with the values the polls and the pop read, and the byte received, left open -/

/-- The run invariant holds in `calm`. -/
theorem calm_run : RunInvariant calm where
  mapped := rfl
  noFault := rfl
  disabledIsIdle := fun _ => ⟨rfl, rfl, rfl, rfl⟩
  fifosFit := ⟨Nat.zero_le _, Nat.zero_le _⟩
  idleBeforeInit := fun _ => ⟨rfl, rfl, rfl, rfl⟩
  enabledAfterInit := fun _ _ => ⟨on_enabled, on_master⟩
  disabledWhileProgramming := fun h => absurd h (by decide)
  masterWhenProgrammed := fun h => absurd h (by decide)
  quietBus := fun h => absurd h (by decide)
  serves := ⟨fun h => absurd h (by decide), fun h => absurd h (by decide), fun h => absurd h (by decide),
    fun h => absurd h (by decide)⟩
  roomToPush := fun h => absurd h (by decide)
  byteToPop := fun h => absurd h (by decide)
  pollsCounted := rfl
  resultWhenDone := rfl
  lock := by
    refine ⟨fun r => ⟨fun h => ?_, fun ⟨q, h⟩ => ?_⟩, fun r q h => ?_, ?_⟩
    · exact absurd h (by simp [calm, on, start, State.resetWith])
    · exact absurd (reset_quiet h) (by simp)
    · exact absurd (reset_quiet h) (by simp)
    · simp [calm, on, start, State.resetWith]

/-- The state after a poll that read `v` and found its condition. -/
def polled (v : Word) (next : Phase) (s : State) : State :=
  { s with cnt := 0, phase := next, rdata := v, drawCount := s.drawCount + 1, hist := s.hist ++ [.regRead 0x70 v] }

/-- The two requests, and the calls that issue them. -/
def qw : Request := .execute 0x50 false [0x10#8, 0xA5#8] 0
def qr : Request := .execute 0x50 false [0x10#8] 1
def cw : Helper := .writeRegister 0x10#8 0xA5#8
def cr : Helper := .readRegister 0x10#8

/-- The write's request served for requester 0 of `calm`, after the history `h`. -/
def writing (p : Phase) (idx : Nat) (tx : List Token) (h : List Event) (tar v : Word) (draws : Nat) : State :=
  { calm with
    regs := { calm.regs with tar := tar }, txFifo := tx, phase := p, req := some qw, owner := some 0,
    lockOwner := some 0, idx := idx, rq := [.active qw, .quiet], hist := h, calls := [some cw, none], rdata := v,
    drawCount := draws }

/-- The read's request served, the write's call having returned. -/
def reading (p : Phase) (idx : Nat) (tx : List Token) (busBusy : Bool) (h : List Event) (v : Word) (draws : Nat) :
    State :=
  { calm with
    regs := { calm.regs with tar := 0x50#32 }, txFifo := tx, wire := { inflight := none, busBusy := busBusy },
    phase := p, req := some qr, owner := some 0, lockOwner := some 0, idx := idx, rq := [.active qr, .quiet],
    hist := h, calls := [some cr, none], rdata := v, drawCount := draws, delivered := some (0, .result (.ok [])) }

def tkA : Token := { cmd := false, dat := 0x10#8 }
def tkB : Token := { cmd := false, dat := 0xA5#8 }
def tkR : Token := { cmd := true, dat := 0#8 }

/-! The histories of the write: TAR, the index, the value, and the tokens on the wire. -/

def hw1 (a : Word) : List Event := [.grant 0 qw, .regRead 0x70 a, .regWrite 0x04 0x50#32]
def hw2 (a b : Word) : List Event := hw1 a ++ [.regRead 0x70 b, .regWrite 0x10 0x10#32]
def hw3 (a b c : Word) : List Event := hw2 a b ++ [.regRead 0x70 c, .regWrite 0x10 0xA5#32]
def hw4 (a b c : Word) : List Event :=
  hw3 a b c ++ [.wStart 0x50#10, .wTx 0x50#10 0x10#8, .wTx 0x50#10 0xA5#8, .wStop]

/-! Those of the read: TAR, the index, the read token, and the tokens on the wire. -/

def hr0 (a b c : Word) : List Event := hw4 a b c ++ [.release 0 (.ok []), .grant 0 qr]
def hr1 (a b c d : Word) : List Event := hr0 a b c ++ [.regRead 0x70 d, .regWrite 0x04 0x50#32]
def hr2 (a b c d e : Word) : List Event := hr1 a b c d ++ [.regRead 0x70 e, .regWrite 0x10 0x10#32]
def hr3 (a b c d e f : Word) : List Event := hr2 a b c d e ++ [.regRead 0x70 f, .regWrite 0x10 0x100#32]
def hr4 (a b c d e f : Word) : List Event := hr3 a b c d e f ++ [.wStart 0x50#10, .wTx 0x50#10 0x10#8]
def hr5 (a b c d e f : Word) (u : Byte) : List Event := hr4 a b c d e f ++ [.wRx 0x50#10 u]

/-! The states between the polls. -/

abbrev sw1 : State := writing .busWait 0 [] [.grant 0 qw] 0 0 0
abbrev sw2 (a : Word) : State := writing .wrPoll 0 [] (hw1 a) 0x50 a 1
abbrev sw3 (a b : Word) : State := writing .wrPoll 1 [tkA] (hw2 a b) 0x50 b 2
abbrev sw4 (a b c : Word) : State := { writing .done 2 [tkA, tkB] (hw3 a b c) 0x50 c 3 with result := some (.ok []) }
abbrev sw5 (a b c : Word) : State := { writing .done 2 [] (hw4 a b c) 0x50 c 3 with result := some (.ok []) }
abbrev sr1 (a b c : Word) : State := { reading .busWait 0 [] false (hr0 a b c) c 3 with regs := (sw5 a b c).regs }
abbrev sr2 (a b c d : Word) : State := reading .wrPoll 0 [] false (hr1 a b c d) d 4
abbrev sr3 (a b c d e : Word) : State := reading .rdPollTx 0 [tkA] false (hr2 a b c d e) e 5
abbrev sr4 (a b c d e f : Word) : State := reading .rdPollRx 0 [tkA, tkR] false (hr3 a b c d e f) f 6
abbrev sr5 (a b c d e f : Word) : State := reading .rdPollRx 0 [tkR] true (hr4 a b c d e f) f 6
abbrev sr6 (a b c d e f : Word) (u : Byte) : State :=
  { reading .rdPollRx 0 [] true (hr5 a b c d e f u) f 6 with rxFifo := [u] }
abbrev sr7 (a b c d e f g v : Word) (u : Byte) : State :=
  { reading .done 1 [] true (hr5 a b c d e f u ++ [.regRead 0x70 g, .regRead 0x10 v]) v 8 with
    rbuf := [receivedByte v], result := some (.ok [receivedByte v]) }

theorem on_target {s : State} (h : s.regs.tar = 0x50#32) : s.target = 0x50#10 := by
  simp only [State.target, State.tenBit, h]
  decide

theorem on_wire {s : State} (h1 : s.faults = []) (h2 : s.regs.enable = 1#32) (h3 : s.regs.con = 0x63#32) :
    s.wireEnabled = true := by
  simp only [State.wireEnabled, State.enabled, State.masterMode, h1, h2, h3]
  decide

theorem idle_readable {s : State} (h1 : s.txFifo = []) (h2 : s.wire.inflight = none) (h3 : s.wire.busBusy = false)
    (d : Word) : (!readsActive (Reg.readWith .status d s)) = true := by
  rw [status_readsActive, (activity_eq_false s).2 ⟨h1, h2, h3⟩]
  rfl

theorem room_readable {s : State} (h : s.tfnf = true) (d : Word) : readsTxRoom (Reg.readWith .status d s) = true := by
  rw [status_readsTxRoom, h]

/-! The run, from poll to poll. -/

theorem run_w1 : runMoves [.helper 0 0x50#7 cw, .grant 0, .engine] calm = .next sw1 := rfl

theorem run_w2 (a : Word) : runMoves [.engine] (polled a .addressSet sw1) = .next (sw2 a) := by
  with_unfolding_all rfl

theorem run_w3 (a b : Word) : runMoves [.engine] (polled b .wrPush (sw2 a)) = .next (sw3 a b) := by
  with_unfolding_all rfl

theorem run_w4 (a b c : Word) : runMoves [.engine] (polled c .wrPush (sw3 a b)) = .next (sw4 a b c) := by
  with_unfolding_all rfl

theorem run_w5 (a b c : Word) :
    runMoves [.wTake, .wComplete, .wTake, .wComplete, .wEnd] (sw4 a b c) = .next (sw5 a b c) :=
  runMoves_cons.2 ⟨_, step_offer_wTake rfl (on_wire rfl rfl rfl) rfl rfl (on_target rfl),
    runMoves_cons.2 ⟨_, step_offer_send rfl (on_wire rfl rfl rfl) rfl (on_target rfl),
    runMoves_cons.2 ⟨_, step_offer_wTake rfl (on_wire rfl rfl rfl) rfl rfl (on_target rfl),
    runMoves_cons.2 ⟨_, step_offer_send rfl (on_wire rfl rfl rfl) rfl (on_target rfl),
    runMoves_cons.2 ⟨_, step_offer_wEnd rfl (on_wire rfl rfl rfl) rfl rfl rfl, rfl⟩⟩⟩⟩⟩

theorem run_r1 (a b c : Word) :
    runMoves [.release, .collect 0, .helper 0 0x50#7 cr, .grant 0, .engine] (sw5 a b c) = .next (sr1 a b c) := by
  with_unfolding_all rfl

theorem run_r2 (a b c d : Word) : runMoves [.engine] (polled d .addressSet (sr1 a b c)) = .next (sr2 a b c d) := by
  with_unfolding_all rfl

theorem run_r3 (a b c d e : Word) :
    runMoves [.engine] (polled e .wrPush (sr2 a b c d)) = .next (sr3 a b c d e) := by
  with_unfolding_all rfl

theorem run_r4 (a b c d e f : Word) :
    runMoves [.engine] (polled f .rdPush (sr3 a b c d e)) = .next (sr4 a b c d e f) := by
  with_unfolding_all rfl

theorem run_r5 (a b c d e f : Word) : runMoves [.wTake, .wComplete] (sr4 a b c d e f) = .next (sr5 a b c d e f) :=
  runMoves_cons.2 ⟨_, step_offer_wTake rfl (on_wire rfl rfl rfl) rfl rfl (on_target rfl),
    runMoves_cons.2 ⟨_, step_offer_send rfl (on_wire rfl rfl rfl) rfl (on_target rfl), rfl⟩⟩

theorem run_r6 (a b c d e f : Word) :
    ∃ u, runMoves [.wTake, .wComplete] (sr5 a b c d e f) = .next (sr6 a b c d e f u) := by
  obtain ⟨u, hu⟩ := step_offer_receive
    (s := { sr5 a b c d e f with txFifo := [], wire := { inflight := some tkR, busBusy := true } }) rfl
    (on_wire rfl rfl rfl) rfl (Nat.succ_pos _) (on_target rfl)
  exact ⟨u, runMoves_cons.2 ⟨_, step_offer_wTake rfl (on_wire rfl rfl rfl) rfl rfl (on_target rfl),
    runMoves_cons.2 ⟨_, hu, rfl⟩⟩⟩

theorem run_r7 (a b c d e f g : Word) (u : Byte) :
    ∃ v, runMoves [.engine] (polled g .rdPop (sr6 a b c d e f u)) = .next (sr7 a b c d e f g v u) :=
  ⟨_, by with_unfolding_all rfl⟩

/-- RoundTripLaws, for one register: every premise holds, and both requests are done. -/
theorem witness_RoundTripLaws :
    ∃ s2 s3, RoundTripPremises 0x50#7 [] 0x10#8 1 calm s2 s3 ∧ [0xA5#8].length ≤ 256 ∧
      expandHelper 0x50#7 cw = .ok qw ∧ expandHelper 0x50#7 cr = .ok qr ∧
      s2.phase = .done ∧ s2.req = some qw ∧ s3.phase = .done ∧ s3.req = some qr := by
  obtain ⟨a, ha⟩ := step_offer_polled (s := sw1) rfl rfl rfl rfl (idle_readable rfl rfl rfl)
  obtain ⟨b, hb⟩ := step_offer_polled (s := sw2 a) rfl rfl rfl rfl (room_readable rfl)
  obtain ⟨c, hc⟩ := step_offer_polled (s := sw3 a b) rfl rfl rfl rfl (room_readable rfl)
  obtain ⟨d, hd⟩ := step_offer_polled (s := sr1 a b c) rfl rfl rfl rfl (idle_readable rfl rfl rfl)
  obtain ⟨e, he⟩ := step_offer_polled (s := sr2 a b c d) rfl rfl rfl rfl (room_readable rfl)
  obtain ⟨f, hf⟩ := step_offer_polled (s := sr3 a b c d e) rfl rfl rfl rfl (room_readable rfl)
  obtain ⟨u, hu⟩ := run_r6 a b c d e f
  obtain ⟨g, hg⟩ := step_offer_polled (s := sr6 a b c d e f u) rfl rfl rfl rfl fun d => status_readsRxByte d _
  obtain ⟨v, hv⟩ := run_r7 a b c d e f g u
  have go {s t s' : State} {m : Move} {ms : List Move} (h1 : step (s.offer m) = .next t)
      (h2 : runMoves ms t = .next s') : runMoves (m :: ms) s = .next s' := runMoves_cons.2 ⟨t, h1, h2⟩
  have cat {s t s' : State} {ms ns : List Move} (h1 : runMoves ms s = .next t) (h2 : runMoves ns t = .next s') :
      runMoves (ms ++ ns) s = .next s' := runMoves_append.2 ⟨t, h1, h2⟩
  refine ⟨sw4 a b c, sr7 a b c d e f g v u, ⟨calm_run, rfl, ⟨rfl, rfl, rfl, rfl⟩, rfl, rfl,
    ⟨_, ?_, cat run_w1 (go ha (cat (run_w2 a) (go hb (cat (run_w3 a b) (go hc (run_w4 a b c))))))⟩,
    ⟨_, ?_, cat (run_w5 a b c) (cat (run_r1 a b c) (go hd (cat (run_r2 a b c d) (go he (cat (run_r3 a b c d e)
      (go hf (cat (run_r4 a b c d e f) (cat (run_r5 a b c d e f) (cat hu (go hg hv))))))))))⟩, ?_, ?_, ?_⟩,
    by decide, rfl, rfl, rfl, rfl, rfl, rfl⟩
  · decide
  · decide
  · intro r info h
    simp [reading, hw1, hw2, hw3, hw4, hr0, hr1, hr2, hr3, hr4, hr5, calm, on, start, State.resetWith] at h
  · show List.count (Event.wStart 0x50#10)
      [.regRead 0x70 b, .regWrite 0x10 0x10#32, .regRead 0x70 c, .regWrite 0x10 0xA5#32, .wStart 0x50#10,
        .wTx 0x50#10 0x10#8, .wTx 0x50#10 0xA5#8, .wStop, .release 0 (.ok []), .grant 0 qr, .regRead 0x70 d] ≤ 1
    simp
  · show (List.filter _ [(0x10#8, 0xA5#8)]).length ≤ 1
    decide

/-- EncodeDecodeAgree: one code of each format that decodes. -/
theorem witness_EncodeDecodeAgree :
    decode (.reg 0x1000#13 0x63#32) = .ok (.wrCon 0x63#32) ∧ decode (.token 0x1FF#32) = .ok (.rtok 0xFF#8) ∧
      decode (.req (reqRecord 1#2 7)) = .ok (.setSpeed 7) := by
  decide

/-- StepRunsDecodedInstruction: an access, a token in flight, a request served. -/
theorem witness_StepRunsDecodedInstruction :
    (∃ (s : State) (a : BusAccess), s.faults = [] ∧ s.sched = .access a :: [] ∧ a.width = 32 ∧ a.off < 4096 ∧
      decode (.reg (regWord a.we a.off) a.value) = .ok (.wrCon 0x63#32)) ∧
      (∃ s : State, s.faults = [] ∧ s.sched = .wComplete :: [] ∧ s.wire.inflight = some tok ∧
        decode (.token (tokenWord tok.cmd tok.dat)) = .ok (.wtok 0x10#8)) ∧
      ∃ s : State, s.faults = [] ∧ s.sched = .engine :: [] ∧ s.req = some (.init 5) ∧
        decode (.req (Request.record (.init 5))) = .ok (.init 5) :=
  ⟨⟨{ start with sched := [.access { we := true, width := 32, off := 0, value := 0x63#32 }] },
      { we := true, width := 32, off := 0, value := 0x63#32 }, rfl, rfl, rfl, by decide, by decide⟩,
    ⟨{ on with wire := { inflight := some tok, busBusy := true }, sched := [.wComplete] }, rfl, rfl, rfl, by decide⟩,
    ⟨granted (.init 5), rfl, rfl, rfl, by decide⟩⟩

end Sys2Proof.Tests
end

section
/-! PROOFS. Several controllers (00_scope.md R5, 60_exceptions.md R253): what a step of one controller can do to the
platform, and the controllers after reset. -/

namespace Sys2Proof.Machine

/-- A controller whose step has a next state is replaced by it, and nothing else is. -/
theorem Platform.stepAt_of_next {k : Nat} {p : Platform} {s t : State} (hs : p[k]? = some s) (ht : step s = .next t) :
    Platform.stepAt k p = p.set k t := by
  simp only [Platform.stepAt, hs, ht]

/-- All that a step of controller `k` can do: the platform stays (the number names no controller, or that controller
stops), or only its own place changes, to the next state of its step. -/
theorem Platform.stepAt_cases (k : Nat) (p : Platform) :
    Platform.stepAt k p = p ∨
      ∃ s t, p[k]? = some s ∧ step s = .next t ∧ Platform.stepAt k p = p.set k t := by
  cases hs : p[k]? with
  | none => exact .inl (by simp only [Platform.stepAt, hs])
  | some s =>
    cases ht : step s with
    | next t => exact .inr ⟨s, t, rfl, ht, Platform.stepAt_of_next hs ht⟩
    | fault _ => exact .inl (by simp only [Platform.stepAt, hs, ht])
    | refused _ => exact .inl (by simp only [Platform.stepAt, hs, ht])

@[simp] theorem Platform.length_stepAt (k : Nat) (p : Platform) : (Platform.stepAt k p).length = p.length := by
  obtain h | ⟨_, t, -, -, h⟩ := Platform.stepAt_cases k p
  · rw [h]
  · rw [h, List.length_set]

theorem Platform.getElem?_stepAt_ne {k j : Nat} (hjk : j ≠ k) (p : Platform) :
    (Platform.stepAt k p)[j]? = p[j]? := by
  obtain h | ⟨_, t, -, -, h⟩ := Platform.stepAt_cases k p
  · rw [h]
  · rw [h, List.getElem?_set_ne hjk.symm]

theorem Platform.getElem?_stepAt_self {k : Nat} {p : Platform} {s t : State} (hs : p[k]? = some s)
    (ht : step s = .next t) : (Platform.stepAt k p)[k]? = some t := by
  obtain ⟨hk, -⟩ := List.getElem?_eq_some_iff.1 hs
  rw [Platform.stepAt_of_next hs ht, List.getElem?_set_self hk]

theorem Platform.getElem?_reset {k : Nat} (hk : k < Config.numControllers) :
    Platform.reset[k]? = some (State.resetWith (Config.params k) Regs.zero) := by
  rw [Platform.reset, List.getElem?_map, List.getElem?_range hk, Option.map_some]

/-- Settles O54: `Platform.stepAt_cases` gives the frame, `Platform.getElem?_stepAt_self` the controller's own step, and
`Platform.getElem?_reset` the instances after reset. -/
theorem controllersAreIndependent : Obligations.ControllersAreIndependent := by
  unfold Obligations.ControllersAreIndependent
  refine ⟨fun p k j => ⟨Platform.length_stepAt k p, fun hjk => Platform.getElem?_stepAt_ne hjk p, fun s t hs ht =>
    Platform.getElem?_stepAt_self hs ht⟩, fun k hk => ?_⟩
  exact ⟨_, Platform.getElem?_reset hk, rfl, rfl⟩

end Sys2Proof.Machine
end

section
/-! PROOFS. All that a step of the wire agent (42_fifo_interface.md R163 to R169), of the lock or of a requester
(44_bus_lock.md R221 to R225, R230 to R233) can do: one lemma per operation, for proofs over every step to cite. Each
says that the operation holds, or that its guard is met and what the next state is. -/

namespace Sys2Proof.Machine

/-- A guarded operation does its update where its guard is met, and holds elsewhere. -/
theorem guarded_next_cases {c : Prop} [Decidable c] {s t u : State}
    (h : whenRunning s (if c then .next u else hold s) = .next t) : t = s ∨ (c ∧ t = u) := by
  obtain ⟨-, h⟩ := whenRunning_next.1 h
  split at h
  next hc => exact .inr ⟨hc, (Host.Outcome.next.inj h).symm⟩
  · exact .inl (hold_next.1 h)

/-! ### The wire agent -/

theorem execWtok_next_cases {b : Byte} {s t : State} (h : execWtok b s = .next t) :
    t = s ∨ (sendEnabled b s = true ∧
      t = { s.record (.wTx s.target b) with wire := { s.wire with inflight := none } }) :=
  guarded_next_cases h

theorem execRtok_next_cases {d : Byte} {s t : State} (h : execRtok d s = .next t) :
    t = s ∨ (recvEnabled s.params.rxDepth d s = true ∧
      t = receive (s.params.oracle.answer s.hist s.target s.tenBit) s) :=
  guarded_next_cases h

/-- What W_TAKE leaves where it takes `tok` and `rest` stays queued (R164). -/
def State.taken (s : State) (tok : Token) (rest : List Token) : State :=
  { s with
    txFifo := rest, wire := { inflight := some tok, busBusy := true },
    hist := s.hist ++ if s.wire.busBusy then [] else [.wStart s.target] }

theorem wireTake_next_cases {s t : State} (h : wireTake s = .next t) :
    t = s ∨ ∃ tok rest, s.txFifo = tok :: rest ∧ s.wireEnabled = true ∧ s.wire.inflight = none ∧
      t = s.taken tok rest := by
  unfold wireTake at h
  split at h
  next tok rest htx =>
    obtain rfl | ⟨hg, rfl⟩ := guarded_next_cases h
    · exact .inl rfl
    · obtain ⟨he, hi⟩ := Bool.and_eq_true_iff.1 hg
      refine .inr ⟨tok, rest, htx, he, Option.isNone_iff_eq_none.1 hi, ?_⟩
      cases hb : s.wire.busBusy <;> simp [State.taken, State.record, hb, State.target, State.tenBit]
  · exact .inl (hold_next.1 (whenRunning_next.1 h).2)

theorem wireEnd_next_cases {s t : State} (h : wireEnd s = .next t) :
    t = s ∨ ((s.wireEnabled && s.wire.busBusy && s.wire.inflight.isNone && s.txFifo.isEmpty) = true ∧
      t = { s.record .wStop with wire := { s.wire with busBusy := false } }) :=
  guarded_next_cases h

theorem wireAbort_next_cases {mayAbort : Bool} {s t : State} (h : wireAbort mayAbort s = .next t) :
    t = s ∨ ((s.wireEnabled && mayAbort && (s.wire.inflight.isSome || !s.txFifo.isEmpty)) = true ∧
      t = { s.record .wAbort with txFifo := [], wire := { s.wire with inflight := none } }) :=
  guarded_next_cases h

/-! ### The lock and the requesters -/

/-- What GRANT of the request `q` to requester `r` leaves (R221, R182). -/
def State.granted (s : State) (r : Requester) (q : Request) : State :=
  { (s.setRq r (.active q)).record (.grant r q) with
    lockOwner := some r, owner := some r, req := some q, phase := .validate, waitQ := s.waitQ.erase r }

theorem grant_next_cases {order : LockOrder} {r : Requester} {s t : State} (h : grant order r s = .next t) :
    t = s ∨ ∃ q, s.rqOf r = some (.waiting q) ∧ s.lockOwner = none ∧ s.phase = .idle ∧
      mayGrant order r s = true ∧ t = s.granted r q := by
  unfold grant at h
  split at h
  next q hq =>
    obtain rfl | ⟨hg, rfl⟩ := guarded_next_cases h
    · exact .inl rfl
    · simp only [Bool.and_eq_true, Option.isNone_iff_eq_none, decide_eq_true_eq] at hg
      obtain ⟨⟨hl, hp⟩, hm⟩ := hg
      exact .inr ⟨q, hq, hl, hp, hm, rfl⟩
  · exact .inl (hold_next.1 (whenRunning_next.1 h).2)

/-- What RELEASE of requester `r` with the result `res` leaves (R222, R249). -/
def State.released (s : State) (r : Requester) (res : Result) : State :=
  { (s.setRq r (.returned res)).record (.release r res) with
    lockOwner := none, owner := none, req := none, result := none, ncfg := none, rbuf := [], idx := 0, cnt := 0,
    phase := .idle }

theorem release_next_cases {s t : State} (h : release s = .next t) :
    t = s ∨ ∃ r res, s.phase.terminal = true ∧ s.owner = some r ∧ s.result = some res ∧ t = s.released r res := by
  obtain ⟨-, h⟩ := whenRunning_next.1 h
  split at h
  next hp =>
    split at h
    next r res hr hres => exact .inr ⟨r, res, hp, hr, hres, (Host.Outcome.next.inj h).symm⟩
    · exact .inl (hold_next.1 h)
  · exact .inl (hold_next.1 h)

/-- What ISSUE of the request `q` by requester `r` leaves (R224). -/
def State.issued (s : State) (r : Requester) (q : Request) (call : Option Helper) : State :=
  { s.setRq r (.waiting q) with waitQ := s.waitQ ++ [r], calls := s.calls.set r call }

theorem issue_next_cases {r : Requester} {q : Request} {call : Option Helper} {s t : State}
    (h : issue r q call s = .next t) : t = s ∨ (s.rqOf r = some .quiet ∧ t = s.issued r q call) := by
  obtain ⟨-, h⟩ := whenRunning_next.1 h
  split at h
  next hr => exact .inr ⟨hr, (Host.Outcome.next.inj h).symm⟩
  · exact .inl (hold_next.1 h)

theorem issueRecord_next_cases {r : Requester} {rec : ReqRecord} {s t : State} (h : issueRecord r rec s = .next t) :
    t = s ∨ ∃ q, requestOf rec = some q ∧ s.rqOf r = some .quiet ∧ t = s.issued r q none := by
  obtain ⟨-, h⟩ := whenRunning_next.1 h
  split at h
  next q hq => exact (issue_next_cases h).imp_right fun ⟨hr, ht⟩ => ⟨q, hq, hr, ht⟩
  · cases h

theorem collect_next_cases {r : Requester} {s t : State} (h : collect r s = .next t) :
    t = s ∨ ∃ res, s.rqOf r = some (.returned res) ∧
      t = { s.setRq r .quiet with delivered := some (r, returnOf (s.callOf r) res) } := by
  obtain ⟨-, h⟩ := whenRunning_next.1 h
  split at h
  next res hr => exact .inr ⟨res, hr, (Host.Outcome.next.inj h).symm⟩
  · exact .inl (hold_next.1 h)

theorem callHelper_next_cases {r : Requester} {addr : BitVec 7} {hp : Helper} {s t : State}
    (h : callHelper r addr hp s = .next t) :
    t = s ∨ (s.rqOf r = some .quiet ∧
      ((∃ q, expandHelper addr hp = .ok q ∧ t = s.issued r q (some hp)) ∨
        ∃ res, expandHelper addr hp = .error res ∧ t = { s with delivered := some (r, .result res) })) := by
  obtain ⟨-, h⟩ := whenRunning_next.1 h
  split at h
  next q hq => exact (issue_next_cases h).imp_right fun ⟨hr, ht⟩ => ⟨hr, .inl ⟨q, hq, ht⟩⟩
  next res hres =>
    split at h
    next hr => exact .inr ⟨hr, .inr ⟨res, hres, (Host.Outcome.next.inj h).symm⟩⟩
    · exact .inl (hold_next.1 h)

end Sys2Proof.Machine
end

section
/-! PROOFS. What no step takes away (10_state.md R52, R45, R50, 70_reset_and_hazards.md R262, 00_scope.md R1, R54): the
relation, the updates that keep it, and every operation of the model up to `step`. -/

namespace Sys2Proof.Machine

/-- Everything of `s` that no step may take away is still in `t`: the recorded events (R52), a completed INIT (R45), the
mapping (R262), the fault reasons (R50) and the parameters (R1, R54). -/
structure State.RetainedIn (s t : State) : Prop where
  hist : s.hist <+: t.hist
  initialized : s.initialized = true → t.initialized = true
  mapped : t.mapped = s.mapped
  faults : ∀ r ∈ s.faults, r ∈ t.faults
  params : t.params = s.params

namespace State.RetainedIn

/-- An update of other fields. -/
theorem of_eq {s t : State} (hh : t.hist = s.hist := by rfl) (hi : t.initialized = s.initialized := by rfl)
    (hm : t.mapped = s.mapped := by rfl) (hf : t.faults = s.faults := by rfl) (hp : t.params = s.params := by rfl) :
    s.RetainedIn t where
  hist := hh ▸ List.prefix_rfl
  initialized := hi ▸ id
  mapped := hm
  faults := hf ▸ fun _ => id
  params := hp

theorem refl (s : State) : s.RetainedIn s :=
  of_eq

theorem trans {s t u : State} (hst : s.RetainedIn t) (htu : t.RetainedIn u) : s.RetainedIn u where
  hist := hst.hist.trans htu.hist
  initialized h := htu.initialized (hst.initialized h)
  mapped := htu.mapped.trans hst.mapped
  faults r h := htu.faults r (hst.faults r h)
  params := htu.params.trans hst.params

theorem record (s : State) (ev : Event) : s.RetainedIn (s.record ev) where
  hist := List.prefix_append _ _
  initialized := id
  mapped := rfl
  faults _ := id
  params := rfl

/-- Recording an event, and then an update of other fields. -/
theorem of_record {s t : State} (ev : Event) (hh : t.hist = (s.record ev).hist := by rfl)
    (hi : t.initialized = s.initialized := by rfl) (hm : t.mapped = s.mapped := by rfl)
    (hf : t.faults = s.faults := by rfl) (hp : t.params = s.params := by rfl) : s.RetainedIn t :=
  (record s ev).trans (of_eq hh hi hm hf hp)

theorem raise (s : State) (x : FaultReason) : s.RetainedIn (s.raise x) where
  hist := by simp
  initialized := by simp
  mapped := by simp
  faults r h := s.mem_raise x r h
  params := by simp

theorem advance (s : State) : s.RetainedIn s.advance :=
  of_eq (by simp) (by simp) (by simp) (by simp) (by simp)

/-- What a step leaves after choosing its move, it leaves of the state before. -/
theorem of_advance {s t : State} (h : s.advance.RetainedIn t) : s.RetainedIn t :=
  (advance s).trans h

end State.RetainedIn

/-! ### Register accesses (R67, R101 to R126) -/

theorem Reg.readEffect_retained (r : Reg) (s : State) : s.RetainedIn (r.readEffect s) := by
  unfold Reg.readEffect
  split
  · split <;> exact .of_eq
  · exact .of_eq
  all_goals exact .refl s

theorem pushToken_retained (depth : Nat) (s : State) (tok : Token) : s.RetainedIn (pushToken depth s tok) := by
  unfold pushToken
  split <;> exact .of_eq

theorem Reg.writeEffect_retained (r : Reg) (v : Word) (s : State) : s.RetainedIn (r.writeEffect v s) := by
  unfold Reg.writeEffect
  split
  case h_1 => exact pushToken_retained _ s _
  case h_2 =>
    dsimp only
    split
    · exact .of_eq
    · exact .of_record .flush
  all_goals exact .of_eq

/-- The state after a read that does not fault. -/
theorem readDone_retained (r : Reg) (v : Word) (n : Nat) (s : State) :
    s.RetainedIn { (r.readEffect s).record (.regRead r.offset v) with drawCount := n, rdata := v } :=
  (r.readEffect_retained s).trans (.of_record _)

/-- The state after a write that does not fault. -/
theorem writeDone_retained (r : Reg) (v : Word) (s : State) :
    s.RetainedIn ((r.writeEffect v s).record (.regWrite r.offset v)) :=
  (r.writeEffect_retained v s).trans (.record _ _)

theorem runRead_retained {r : Reg} {s t : State} (h : runRead r s = .next t) : s.RetainedIn t := by
  obtain ⟨-, ⟨x, -, rfl⟩ | ⟨-, rfl⟩⟩ := runRead_next.1 h
  · exact .raise s x
  · exact readDone_retained r _ _ s

theorem runWrite_retained {r : Reg} {v : Word} {s t : State} (h : runWrite r v s = .next t) : s.RetainedIn t := by
  obtain ⟨-, ⟨x, -, rfl⟩ | ⟨-, rfl⟩⟩ := runWrite_next.1 h
  · exact .raise s x
  · exact writeDone_retained r v s

/-! ### The engine's steps: an access, then a change of the engine's registers (R180) -/

theorem engineWrite_retained {r : Reg} {v : Word} {after : State → State} {s t : State}
    (hafter : ∀ u : State, u.RetainedIn (after u)) (h : engineWrite r v after s = .next t) : s.RetainedIn t := by
  obtain ⟨x, -, rfl⟩ | ⟨-, rfl⟩ := engineWrite_next.1 h
  · exact .raise s x
  · exact (writeDone_retained r v s).trans (hafter _)

theorem engineRead_retained {r : Reg} {after : Word → State → State} {s t : State}
    (hafter : ∀ (v : Word) (u : State), u.RetainedIn (after v u)) (h : engineRead r after s = .next t) :
    s.RetainedIn t := by
  obtain ⟨x, -, rfl⟩ | ⟨-, rfl⟩ := engineRead_next.1 h
  · exact .raise s x
  · exact (readDone_retained r _ _ s).trans (hafter _ _)

theorem poll_retained {bound : Nat} {k : Wait} {success : Word → Bool} {next : Phase} {s t : State}
    (h : poll bound k success next s = .next t) : s.RetainedIn t := by
  refine engineRead_retained (fun v u => ?_) h
  unfold pollAfter
  split
  · exact .of_eq
  · split <;> exact .of_eq

theorem toPhase_retained (p : Phase) (s : State) : s.RetainedIn (toPhase p s) :=
  .of_eq

/-- The commit is the one update that changes `initialized`, and it sets it (R154). -/
theorem commitConfig_retained (s : State) : s.RetainedIn (commitConfig s) where
  hist := List.prefix_rfl
  initialized _ := rfl
  mapped := rfl
  faults _ := id
  params := rfl

theorem afterAddress_retained (wlen : Nat) (s : State) : s.RetainedIn (afterAddress wlen s) :=
  .of_eq

theorem afterPush_retained (wlen rlen : Nat) (s : State) : s.RetainedIn (afterPush wlen rlen s) := by
  unfold afterPush
  split
  · exact .of_eq
  · split <;> exact .of_eq

theorem afterPop_retained (rlen : Nat) (v : Word) (s : State) : s.RetainedIn (afterPop rlen v s) := by
  unfold afterPop
  dsimp only
  split <;> exact .of_eq

theorem validateInit_retained (p : Params) (f : Nat) (s : State) : s.RetainedIn (validateInit p f s) := by
  unfold validateInit
  split
  · exact .of_eq
  · split <;> exact .of_eq

theorem validateSetSpeed_retained (p : Params) (f : Nat) (s : State) : s.RetainedIn (validateSetSpeed p f s) := by
  unfold validateSetSpeed
  split
  · exact .of_eq
  · split <;> exact .of_eq

theorem validateExecute_retained (maxLen : Option Nat) (addr : Nat) (tenBit : Bool) (wdata : List Byte) (rlen : Nat)
    (s : State) : s.RetainedIn (validateExecute maxLen addr tenBit wdata rlen s) := by
  unfold validateExecute
  dsimp only
  split
  · exact .of_eq
  · split <;> exact .of_eq

theorem hold_retained {s t : State} (h : hold s = .next t) : s.RetainedIn t :=
  hold_next.1 h ▸ .refl s

theorem cfgStep_retained {s t : State} (h : cfgStep s = .next t) : s.RetainedIn t := by
  unfold cfgStep at h
  split at h
  case h_8 => exact engineWrite_retained commitConfig_retained h
  case h_9 => exact hold_retained h
  all_goals exact engineWrite_retained (toPhase_retained _) h

/-- A request served retains what its step retains. -/
theorem whileServing_retained {q : Request} {s t : State} {o : Outcome} (ho : o = .next t → s.RetainedIn t)
    (h : whileServing q s o = .next t) : s.RetainedIn t := by
  obtain ⟨-, ⟨-, h⟩ | ⟨-, rfl⟩⟩ := whileServing_next.1 h
  · exact ho h
  · exact .refl _

theorem execInit_retained {f : Nat} {s t : State} (h : execInit f s = .next t) : s.RetainedIn t := by
  refine whileServing_retained (fun h => ?_) h
  split at h
  · cases h
    exact validateInit_retained _ f s
  · exact cfgStep_retained h

theorem execSetSpeed_retained {f : Nat} {s t : State} (h : execSetSpeed f s = .next t) : s.RetainedIn t := by
  refine whileServing_retained (fun h => ?_) h
  split at h
  · cases h
    exact validateSetSpeed_retained _ f s
  · exact poll_retained h
  · exact cfgStep_retained h

theorem execExecute_retained {addr : Nat} {tenBit : Bool} {wdata : List Byte} {rlen : Nat} {s t : State}
    (h : execExecute addr tenBit wdata rlen s = .next t) : s.RetainedIn t := by
  refine whileServing_retained (fun h => ?_) h
  split at h
  · cases h
    exact validateExecute_retained _ addr tenBit wdata rlen s
  · exact poll_retained h
  · exact engineWrite_retained (afterAddress_retained _) h
  · exact poll_retained h
  · split at h
    · exact engineWrite_retained (afterPush_retained _ _) h
    · exact hold_retained h
  · exact poll_retained h
  · exact engineWrite_retained (toPhase_retained _) h
  · exact poll_retained h
  · exact engineRead_retained (afterPop_retained rlen) h
  · exact hold_retained h

/-! ### The wire agent -/

theorem execWtok_retained {b : Byte} {s t : State} (h : execWtok b s = .next t) : s.RetainedIn t := by
  obtain rfl | ⟨-, rfl⟩ := execWtok_next_cases h
  · exact .refl _
  · exact .of_record _

theorem execRtok_retained {d : Byte} {s t : State} (h : execRtok d s = .next t) : s.RetainedIn t := by
  obtain rfl | ⟨-, rfl⟩ := execRtok_next_cases h
  · exact .refl _
  · exact .of_record _

theorem State.taken_retained (s : State) (tok : Token) (rest : List Token) : s.RetainedIn (s.taken tok rest) where
  hist := List.prefix_append _ _
  initialized := id
  mapped := rfl
  faults _ := id
  params := rfl

theorem wireTake_retained {s t : State} (h : wireTake s = .next t) : s.RetainedIn t := by
  obtain rfl | ⟨tok, rest, -, -, -, rfl⟩ := wireTake_next_cases h
  · exact .refl _
  · exact s.taken_retained tok rest

theorem wireEnd_retained {s t : State} (h : wireEnd s = .next t) : s.RetainedIn t := by
  obtain rfl | ⟨-, rfl⟩ := wireEnd_next_cases h
  · exact .refl _
  · exact .of_record _

theorem wireAbort_retained {mayAbort : Bool} {s t : State} (h : wireAbort mayAbort s = .next t) : s.RetainedIn t := by
  obtain rfl | ⟨-, rfl⟩ := wireAbort_next_cases h
  · exact .refl _
  · exact .of_record _

/-! ### The lock and the requesters -/

theorem grant_retained {order : LockOrder} {r : Requester} {s t : State} (h : grant order r s = .next t) :
    s.RetainedIn t := by
  obtain rfl | ⟨q, -, -, -, -, rfl⟩ := grant_next_cases h
  · exact .refl _
  · exact .of_record (.grant r q)

theorem release_retained {s t : State} (h : release s = .next t) : s.RetainedIn t := by
  obtain rfl | ⟨r, res, -, -, -, rfl⟩ := release_next_cases h
  · exact .refl _
  · exact .of_record (.release r res)

theorem State.issued_retained (s : State) (r : Requester) (q : Request) (call : Option Helper) :
    s.RetainedIn (s.issued r q call) :=
  .of_eq

theorem issueRecord_retained {r : Requester} {rec : ReqRecord} {s t : State} (h : issueRecord r rec s = .next t) :
    s.RetainedIn t := by
  obtain rfl | ⟨q, -, -, rfl⟩ := issueRecord_next_cases h
  · exact .refl _
  · exact s.issued_retained r q none

theorem collect_retained {r : Requester} {s t : State} (h : collect r s = .next t) : s.RetainedIn t := by
  obtain rfl | ⟨res, -, rfl⟩ := collect_next_cases h
  · exact .refl _
  · exact .of_eq

theorem callHelper_retained {r : Requester} {addr : BitVec 7} {hp : Helper} {s t : State}
    (h : callHelper r addr hp s = .next t) : s.RetainedIn t := by
  obtain rfl | ⟨-, ⟨q, -, rfl⟩ | ⟨res, -, rfl⟩⟩ := callHelper_next_cases h
  · exact .refl _
  · exact s.issued_retained r q (some hp)
  · exact .of_eq

/-! ### The step -/

theorem exec_retained {i : Instr} {s t : State} (h : exec i s = .next t) : s.RetainedIn t := by
  cases i with
  | rdCon | rdTar | rdSar | rdDataCmd | rdSsHcnt | rdSsLcnt | rdFsHcnt | rdFsLcnt | rdIntrStat | rdIntrMask
  | rdRawIntrStat | rdRxTl | rdTxTl | rdClrIntr | rdEnable | rdStatus | rdTxflr | rdRxflr => exact runRead_retained h
  | wrCon | wrTar | wrSar | wrDataCmd | wrSsHcnt | wrSsLcnt | wrFsHcnt | wrFsLcnt | wrIntrMask | wrRxTl | wrTxTl
  | wrEnable => exact runWrite_retained h
  | wtok dat => exact execWtok_retained h
  | rtok dat => exact execRtok_retained h
  | init f => exact execInit_retained h
  | setSpeed f => exact execSetSpeed_retained h
  | execute addr tenBit wdata rlen => exact execExecute_retained h

theorem runIllegal_retained {x : FaultReason} {s t : State} (h : runIllegal x s = .next t) : s.RetainedIn t := by
  obtain ⟨-, h⟩ := whenRunning_next.1 h
  cases h
  exact .raise s _

theorem runUndecoded_retained {e : DecodeError} {s t : State} (h : runUndecoded e s = .next t) : s.RetainedIn t := by
  cases e with
  | badAccess | roWrite | reservedBits => exact runIllegal_retained h
  | reservedKind => cases (whenRunning_next.1 h).2

theorem runMove_retained {m : Move} {s t : State} (h : runMove m s = .next t) : s.RetainedIn t := by
  cases m with
  | access a => exact runIllegal_retained h
  | engine | wComplete => exact hold_retained (whenRunning_next.1 h).2
  | wTake => exact wireTake_retained h
  | wEnd => exact wireEnd_retained h
  | wAbort => exact wireAbort_retained h
  | grant r => exact grant_retained h
  | release => exact release_retained h
  | issue r rec => exact issueRecord_retained h
  | collect r => exact collect_retained h
  | helper r addr hp => exact callHelper_retained h

theorem step_retained {s t : State} (h : step s = .next t) : s.RetainedIn t := by
  obtain ⟨-, ⟨c, i, -, -, h⟩ | ⟨c, e, -, -, h⟩ | ⟨-, h⟩⟩ := step_next_cases h
  · exact .of_advance (exec_retained h)
  · exact .of_advance (runUndecoded_retained h)
  · exact .of_advance (runMove_retained h)

/-- Settles O47: the instruction run, the fault of an illegal encoding and the move's own rule all retain what
no step may take away (`step_retained`). -/
theorem nothingIsForgotten : Obligations.NothingIsForgotten := by
  intro s t h
  obtain ⟨hist, initialized, mapped, faults, params⟩ := step_retained h
  exact ⟨hist, initialized, mapped, faults, params⟩

end Sys2Proof.Machine
end

section
/-! PROOFS. The faulted controller (10_state.md R50, 60_exceptions.md R245): every instruction and every step asks first
whether a fault is raised. -/

namespace Sys2Proof.Machine

theorem whenRunning_of_faulted {s : State} (h : s.faults ≠ []) (o : Outcome) :
    whenRunning s o = .fault .controllerFaulted := by
  simp [whenRunning, h]

/-- Every instruction is some operation that only a running controller takes. -/
theorem exec_eq_whenRunning (i : Instr) (s : State) : ∃ o, exec i s = whenRunning s o := by
  cases i <;> exact ⟨_, rfl⟩

/-- Settles O17: `whenRunning` guards the step and every instruction. -/
theorem faultedControllerStops : Obligations.FaultedControllerStops := by
  intro s h
  refine ⟨whenRunning_of_faulted h _, fun i => ?_⟩
  obtain ⟨o, ho⟩ := exec_eq_whenRunning i s
  rw [ho, whenRunning_of_faulted h]

end Sys2Proof.Machine
end

section
/-! PROOFS. The state after reset (10_state.md R53, 70_reset_and_hazards.md R260) and the invariants it meets. -/

namespace Sys2Proof.Machine

/-- Every requester there is, is quiet after reset (R53). -/
theorem State.resetWith_rq (p : Params) (d : Regs) (r : Requester) :
    (State.resetWith p d).rq[r]? = if r < p.numRequesters then some .quiet else none :=
  List.getElem?_replicate

/-- No requester is in another state after reset. -/
theorem State.resetWith_quiet {p : Params} {d : Regs} {r : Requester} {x : RqState}
    (h : (State.resetWith p d).rq[r]? = some x) : x = .quiet := by
  rw [State.resetWith_rq] at h
  split at h
  · exact (Option.some.inj h).symm
  · cases h

theorem serialIdle_resetWith (p : Params) (d : Regs) : SerialIdle (State.resetWith p d) :=
  ⟨rfl, rfl, rfl, rfl⟩

/-- Settles O43: R53's table, field by field. -/
theorem resetState : Obligations.ResetState := by
  intro p d s
  have hrq : ∀ r, r < p.numRequesters → s.rq[r]? = some .quiet := fun r hr => by
    rw [State.resetWith_rq, if_pos hr]
  exact ⟨rfl, rfl, serialIdle_resetWith p d, rfl, rfl, rfl, rfl, rfl, rfl, rfl, rfl, rfl, rfl, rfl, rfl, hrq, rfl, rfl,
    rfl⟩

/-- The lock is free and no requester is active (R220). -/
theorem lockInvariant_resetWith (p : Params) (d : Regs) : LockInvariant (State.resetWith p d) := by
  refine ⟨fun r => ⟨nofun, ?_⟩, fun r q h => ?_, fun _ => ⟨rfl, rfl, rfl⟩, fun _ => rfl⟩
  · rintro ⟨q, h⟩
    cases State.resetWith_quiet h
  · cases State.resetWith_quiet h

/-- No requester waits, and the issue order is empty (R226). -/
theorem waitersListed_resetWith (p : Params) (d : Regs) : WaitersListed (State.resetWith p d) := by
  refine ⟨List.nodup_nil, fun r => ⟨nofun, ?_⟩⟩
  rintro ⟨q, h⟩
  cases State.resetWith_quiet h

/-- The phase IDLE serves no request, so nothing is asked of one (R180). -/
theorem servesItsPhase_resetWith (p : Params) (d : Regs) : ServesItsPhase (State.resetWith p d) :=
  ⟨nofun, nofun, nofun, nofun⟩

/-- The serial side is idle, the phase is IDLE and INIT has not completed, so that every clause about an enabled
controller or a request being served asks nothing (R130, R184, R199, R204, R220, R274). -/
theorem runInvariant_resetWith (p : Params) (d : Regs) : RunInvariant (State.resetWith p d) where
  mapped := rfl
  noFault := rfl
  disabledIsIdle _ := serialIdle_resetWith p d
  fifosFit := ⟨Nat.zero_le _, Nat.zero_le _⟩
  idleBeforeInit _ := serialIdle_resetWith p d
  enabledAfterInit := nofun
  disabledWhileProgramming := nofun
  masterWhenProgrammed := nofun
  quietBus := nofun
  serves := servesItsPhase_resetWith p d
  roomToPush := nofun
  byteToPop := nofun
  pollsCounted := rfl
  resultWhenDone := rfl
  lock := lockInvariant_resetWith p d

/-- There is no configuration, neither a current one nor one being programmed (R146). -/
theorem configInvariant_resetWith (p : Params) (d : Regs) : ConfigInvariant (State.resetWith p d) :=
  ⟨nofun, nofun, nofun, nofun⟩

/-- No EXECUTE is being served (R201). -/
theorem transferTrace_resetWith (p : Params) (d : Regs) : TransferTrace (State.resetWith p d) :=
  nofun

theorem Regs.reservedClear_zero : Regs.zero.ReservedClear := by
  unfold Regs.ReservedClear
  decide

/-- The parameters of every controller are values R1, R34, R35 and R170 allow. -/
theorem valid_configParams (k : Nat) : (Config.params k).Valid :=
  ⟨Nat.le_add_left 1 _, (Config.txDepthLessOne k).isLt, Nat.le_add_left 1 _, (Config.rxDepthLessOne k).isLt,
    Nat.succ_pos _, Nat.le_add_left 1 _, nofun⟩

/-- Settles O44: each invariant from its own lemma; the reserved bits are those of the register fields given. -/
theorem resetMeetsInvariants : Obligations.ResetMeetsInvariants :=
  ⟨fun p d => ⟨runInvariant_resetWith p d, configInvariant_resetWith p d, transferTrace_resetWith p d,
    waitersListed_resetWith p d, id⟩, Regs.reservedClear_zero, valid_configParams⟩

end Sys2Proof.Machine
end

section
/-! PROOFS. The step and the instruction it runs (20_memory.md R70, 30_encoding.md R80 to R83): what a fetched code, or
none, makes of the step, and what each agent's move fetches. -/

namespace Sys2Proof.Machine

theorem step_of_fetch_none {s : State} (hs : s.faults = []) (hf : fetch s = none) :
    step s = runMove s.nextMove s.advance := by
  rw [step, whenRunning_of_unfaulted hs, runNext, hf]

theorem step_of_decode_ok {s : State} {c : Code} {i : Instr} (hs : s.faults = []) (hf : fetch s = some c)
    (hd : decode c = .ok i) : step s = exec i s.advance := by
  rw [step, whenRunning_of_unfaulted hs, runNext, hf]
  simp only [hd]

theorem step_of_decode_error {s : State} {c : Code} {e : DecodeError} (hs : s.faults = []) (hf : fetch s = some c)
    (hd : decode c = .error e) : step s = runUndecoded e s.advance := by
  rw [step, whenRunning_of_unfaulted hs, runNext, hf]
  simp only [hd]

theorem fetch_of_access {s : State} {a : BusAccess} (hm : s.nextMove = .access a) : fetch s = a.code := by
  simp only [fetch, hm]

theorem fetch_of_wComplete {s : State} (hm : s.nextMove = .wComplete) : fetch s = s.wire.inflight.map Token.code := by
  simp only [fetch, hm]

theorem fetch_of_engine {s : State} (hm : s.nextMove = .engine) : fetch s = s.req.map fun q => .req q.record := by
  simp only [fetch, hm]

/-- A 32-bit access inside the window has a REG word (R80). -/
theorem BusAccess.code_of_window {a : BusAccess} (hw : a.width = 32) (ho : a.off < 4096) :
    a.code = some (.reg (regWord a.we a.off) a.value) :=
  if_pos ⟨hw, ho⟩

/-- Only such an access has one. -/
theorem BusAccess.code_eq_some {a : BusAccess} {c : Code} (h : a.code = some c) :
    a.width = 32 ∧ a.off < 4096 ∧ c = .reg (regWord a.we a.off) a.value := by
  unfold BusAccess.code at h
  split at h
  next hg => exact ⟨hg.1, hg.2, (Option.some.inj h).symm⟩
  · cases h

/-- Settles O60: each of the three moves fetches the code the statement names. -/
theorem stepRunsDecodedInstruction : Obligations.StepRunsDecodedInstruction := by
  intro s m rest i hs hsched
  have hm := State.nextMove_of_sched hsched
  rw [← State.advance_of_sched hsched]
  refine ⟨?_, ?_, ?_⟩
  · rintro a rfl hw ho hd
    exact step_of_decode_ok hs ((fetch_of_access hm).trans (a.code_of_window hw ho)) hd
  · rintro tok rfl htok hd
    exact step_of_decode_ok hs (by rw [fetch_of_wComplete hm, htok]; rfl) hd
  · rintro q rfl hq hd
    exact step_of_decode_ok hs (by rw [fetch_of_engine hm, hq]; rfl) hd

end Sys2Proof.Machine
end

section
/-! PROOFS. The REG instructions (30_encoding.md R80, R89, R90): which register each one reads or writes, and what a REG
word decodes to. -/

namespace Sys2Proof.Machine

/-! ### The instruction of a register -/

theorem exec_ofRead (r : Reg) (s : State) : exec (.ofRead r) s = runRead r s := by
  cases r <;> rfl

/-- A write instruction is of a register that is not read-only (R63), and writes it. -/
theorem exec_of_ofWrite {r : Reg} {v : Word} {i : Instr} (h : Instr.ofWrite r v = .ok i) :
    r.readOnly = false ∧ ∀ s, exec i s = runWrite r v s := by
  cases r with
  | intrStat | rawIntrStat | clrIntr | status | txflr | rxflr => cases h
  | con | tar | sar | dataCmd | ssHcnt | ssLcnt | fsHcnt | fsLcnt | intrMask | rxTl | txTl | enable =>
    cases h
    exact ⟨rfl, fun _ => rfl⟩

theorem ofWrite_of_readOnly {r : Reg} (h : r.readOnly = true) (v : Word) : Instr.ofWrite r v = .error .roWrite := by
  cases r with
  | intrStat | rawIntrStat | clrIntr | status | txflr | rxflr => rfl
  | con | tar | sar | dataCmd | ssHcnt | ssLcnt | fsHcnt | fsLcnt | intrMask | rxTl | txTl | enable => cases h

theorem exists_ofWrite {r : Reg} (h : r.readOnly = false) (v : Word) : ∃ i, Instr.ofWrite r v = .ok i := by
  cases r with
  | intrStat | rawIntrStat | clrIntr | status | txflr | rxflr => cases h
  | con | tar | sar | dataCmd | ssHcnt | ssLcnt | fsHcnt | fsLcnt | intrMask | rxTl | txTl | enable => exact ⟨_, rfl⟩

/-- A register access instruction is the read of a register or the write of one. -/
theorem isAccess_cases {i : Instr} (h : isAccess i = true) :
    (∃ r, i = .ofRead r) ∨ ∃ r v, Instr.ofWrite r v = .ok i := by
  cases i with
  | rdCon => exact .inl ⟨.con, rfl⟩
  | rdTar => exact .inl ⟨.tar, rfl⟩
  | rdSar => exact .inl ⟨.sar, rfl⟩
  | rdDataCmd => exact .inl ⟨.dataCmd, rfl⟩
  | rdSsHcnt => exact .inl ⟨.ssHcnt, rfl⟩
  | rdSsLcnt => exact .inl ⟨.ssLcnt, rfl⟩
  | rdFsHcnt => exact .inl ⟨.fsHcnt, rfl⟩
  | rdFsLcnt => exact .inl ⟨.fsLcnt, rfl⟩
  | rdIntrStat => exact .inl ⟨.intrStat, rfl⟩
  | rdIntrMask => exact .inl ⟨.intrMask, rfl⟩
  | rdRawIntrStat => exact .inl ⟨.rawIntrStat, rfl⟩
  | rdRxTl => exact .inl ⟨.rxTl, rfl⟩
  | rdTxTl => exact .inl ⟨.txTl, rfl⟩
  | rdClrIntr => exact .inl ⟨.clrIntr, rfl⟩
  | rdEnable => exact .inl ⟨.enable, rfl⟩
  | rdStatus => exact .inl ⟨.status, rfl⟩
  | rdTxflr => exact .inl ⟨.txflr, rfl⟩
  | rdRxflr => exact .inl ⟨.rxflr, rfl⟩
  | wrCon v => exact .inr ⟨.con, v, rfl⟩
  | wrTar v => exact .inr ⟨.tar, v, rfl⟩
  | wrSar v => exact .inr ⟨.sar, v, rfl⟩
  | wrDataCmd v => exact .inr ⟨.dataCmd, v, rfl⟩
  | wrSsHcnt v => exact .inr ⟨.ssHcnt, v, rfl⟩
  | wrSsLcnt v => exact .inr ⟨.ssLcnt, v, rfl⟩
  | wrFsHcnt v => exact .inr ⟨.fsHcnt, v, rfl⟩
  | wrFsLcnt v => exact .inr ⟨.fsLcnt, v, rfl⟩
  | wrIntrMask v => exact .inr ⟨.intrMask, v, rfl⟩
  | wrRxTl v => exact .inr ⟨.rxTl, v, rfl⟩
  | wrTxTl v => exact .inr ⟨.txTl, v, rfl⟩
  | wrEnable v => exact .inr ⟨.enable, v, rfl⟩
  | wtok _ | rtok _ | init _ | setSpeed _ | execute _ _ _ _ => cases h

/-! ### The offset map and the REG word -/

theorem Reg.ofOffset_offset (r : Reg) : Reg.ofOffset r.offset = some r := by
  cases r <;> rfl

theorem Reg.ofOffset_eq_none {off : Nat} : Reg.ofOffset off = none ↔ off ∉ Reg.all.map Reg.offset := by
  simp [Reg.ofOffset]

theorem Reg.offset_lt_window (r : Reg) : r.offset < 4096 := by
  cases r <;> decide

/-- Everything a REG word decodes to: the read or the write of the register at its offset, or an error that names a
check of the access (R61 to R63). -/
theorem decode_reg_cases (word : BitVec 13) (v : Word) :
    (∃ r, decode (.reg word v) = .ok (.ofRead r)) ∨
      (∃ r i, Instr.ofWrite r v = .ok i ∧ decode (.reg word v) = .ok i) ∨
      decode (.reg word v) = .error .badAccess ∨ decode (.reg word v) = .error .roWrite := by
  simp only [decode, decodeReg]
  cases Reg.ofOffset (word.extractLsb' 0 12).toNat with
  | none => exact .inr (.inr (.inl rfl))
  | some r =>
    cases word.getLsbD 12 with
    | false => exact .inl ⟨r, rfl⟩
    | true =>
      cases hr : r.readOnly with
      | true => exact .inr (.inr (.inr (ofWrite_of_readOnly hr v)))
      | false =>
        obtain ⟨i, hi⟩ := exists_ofWrite hr v
        exact .inr (.inl ⟨r, i, hi, hi⟩)

theorem decode_regWord_of_noReg {off : Nat} (ho : off < 4096) (h : Reg.ofOffset off = none) (we : Bool) (v : Word) :
    decode (.reg (regWord we off) v) = .error .badAccess := by
  simp only [decode, decodeReg, (regWord_fields we off ho).1, h]

theorem decode_regWord_write (r : Reg) (v : Word) :
    decode (.reg (regWord true r.offset) v) = Instr.ofWrite r v := by
  obtain ⟨hoff, hwe⟩ := regWord_fields true r.offset r.offset_lt_window
  simp only [decode, decodeReg, hoff, hwe, r.ofOffset_offset, if_true]

end Sys2Proof.Machine
end

section
/-! PROOFS. The faults every register access shares, in the order of R68: the window not mapped (20_memory.md R65), a
wrong width or offset (R61, R62), a write to a read-only register (R63), a 1 in a reserved bit (R64). -/

namespace Sys2Proof.Machine

/-- A fault raised by a controller that has none is the only one, and nothing else changes (R245). -/
theorem runRead_of_readFault {r : Reg} {s : State} {x : FaultReason} (hs : s.faults = []) (h : r.readFault s = some x) :
    runRead r s = .next { s with faults := [x] } :=
  runRead_next.2 ⟨hs, .inl ⟨x, h, (State.raise_of_unfaulted hs x).symm⟩⟩

theorem runWrite_of_firstWriteFault {r : Reg} {v : Word} {s : State} {x : FaultReason} (hs : s.faults = [])
    (h : r.firstWriteFault v s = some x) : runWrite r v s = .next { s with faults := [x] } :=
  runWrite_next.2 ⟨hs, .inl ⟨x, h, (State.raise_of_unfaulted hs x).symm⟩⟩

theorem runIllegal_of_unfaulted {s : State} (hs : s.faults = []) (x : FaultReason) :
    runIllegal x s = .next { s with faults := [if s.mapped then x else .unmapped] } := by
  rw [runIllegal, whenRunning_of_unfaulted hs, State.raise_of_unfaulted hs]

/-! ### The window not mapped (R65) -/

theorem Reg.readFault_of_unmapped {s : State} (h : s.mapped = false) (r : Reg) : r.readFault s = some .unmapped := by
  simp [Reg.readFault, h]

theorem Reg.firstWriteFault_of_unmapped {s : State} (h : s.mapped = false) (r : Reg) (v : Word) :
    r.firstWriteFault v s = some .unmapped := by
  simp [Reg.firstWriteFault, h]

theorem runIllegal_of_unmapped {s : State} (hs : s.faults = []) (hm : s.mapped = false) (x : FaultReason) :
    runIllegal x s = .next { s with faults := [.unmapped] } := by
  rw [runIllegal_of_unfaulted hs, hm]
  rfl

theorem exec_ofRead_of_unmapped {s : State} (hs : s.faults = []) (hm : s.mapped = false) (r : Reg) :
    exec (.ofRead r) s = .next { s with faults := [.unmapped] } := by
  rw [exec_ofRead, runRead_of_readFault hs (r.readFault_of_unmapped hm)]

theorem exec_ofWrite_of_unmapped {r : Reg} {v : Word} {i : Instr} {s : State} (hi : Instr.ofWrite r v = .ok i)
    (hs : s.faults = []) (hm : s.mapped = false) : exec i s = .next { s with faults := [.unmapped] } := by
  rw [(exec_of_ofWrite hi).2, runWrite_of_firstWriteFault hs (r.firstWriteFault_of_unmapped hm v)]

/-- Another driver's access while the window is not mapped: with no REG code, with one that decodes to an instruction,
or with one that does not, it is the same fault (R68). -/
theorem step_access_of_unmapped {s : State} {a : BusAccess} (hs : s.faults = []) (hm : s.mapped = false)
    (ha : s.nextMove = .access a) : step s = .next { s.advance with faults := [.unmapped] } := by
  have hs' : s.advance.faults = [] := by rw [State.advance_faults, hs]
  have hm' : s.advance.mapped = false := by rw [State.advance_mapped, hm]
  have hf := fetch_of_access ha
  cases hc : a.code with
  | none => rw [step_of_fetch_none hs (hf.trans hc), ha, runMove, runIllegal_of_unmapped hs' hm']
  | some c =>
    obtain ⟨-, -, rfl⟩ := BusAccess.code_eq_some hc
    rw [hc] at hf
    obtain ⟨r, hd⟩ | ⟨r, i, hi, hd⟩ | hd | hd := decode_reg_cases (regWord a.we a.off) a.value
    · rw [step_of_decode_ok hs hf hd, exec_ofRead_of_unmapped hs' hm']
    · rw [step_of_decode_ok hs hf hd, exec_ofWrite_of_unmapped hi hs' hm']
    · rw [step_of_decode_error hs hf hd, runUndecoded, runIllegal_of_unmapped hs' hm']
    · rw [step_of_decode_error hs hf hd, runUndecoded, runIllegal_of_unmapped hs' hm']

/-- Settles O14: the mapping is the first check of a read, of a write and of an access with no legal encoding. -/
theorem unmappedAccessFault : Obligations.UnmappedAccessFault := by
  refine ⟨fun i s hi hs hm => ?_, fun a s rest hs hm hsched => ?_⟩
  · obtain ⟨r, rfl⟩ | ⟨r, v, hi⟩ := isAccess_cases hi
    · exact exec_ofRead_of_unmapped hs hm r
    · exact exec_ofWrite_of_unmapped hi hs hm
  · rw [step_access_of_unmapped hs hm (State.nextMove_of_sched hsched), State.advance_of_sched hsched]

/-! ### A wrong width or offset, and a write to a read-only register (R61 to R63) -/

/-- Every register's offset is a multiple of 4 (R21), so an offset that is not holds no register. -/
theorem Reg.ofOffset_of_unaligned {off : Nat} (h : off % 4 ≠ 0) : Reg.ofOffset off = none :=
  Reg.ofOffset_eq_none.2 fun hmem => h ((by decide : ∀ o ∈ Reg.all.map Reg.offset, o % 4 = 0) off hmem)

/-- An access of another width, or at an offset that holds no register, runs no instruction: whether it lies inside the
window, so that its code is refused, or outside it, so that it has none. -/
theorem step_access_badAccess {s : State} {a : BusAccess} (hs : s.faults = []) (ha : s.nextMove = .access a)
    (h : a.width ≠ 32 ∨ Reg.ofOffset a.off = none) : step s = runIllegal .badAccess s.advance := by
  have hf := fetch_of_access ha
  cases hc : a.code with
  | none => rw [step_of_fetch_none hs (hf.trans hc), ha, runMove]
  | some c =>
    obtain ⟨hw, ho, rfl⟩ := BusAccess.code_eq_some hc
    have hd := decode_regWord_of_noReg ho (h.resolve_left (not_not_intro hw)) a.we a.value
    rw [step_of_decode_error hs (hf.trans hc) hd, runUndecoded]

theorem step_access_roWrite {s : State} {a : BusAccess} {r : Reg} (hs : s.faults = []) (ha : s.nextMove = .access a)
    (hw : a.width = 32) (hwe : a.we = true) (ho : a.off = r.offset) (hr : r.readOnly = true) :
    step s = runIllegal .roWrite s.advance := by
  have hc : a.code = some (.reg (regWord true r.offset) a.value) := by
    rw [← hwe, ← ho]
    exact a.code_of_window hw (ho ▸ r.offset_lt_window)
  have hd : decode (.reg (regWord true r.offset) a.value) = .error .roWrite := by
    rw [decode_regWord_write, ofWrite_of_readOnly hr]
  rw [step_of_decode_error hs ((fetch_of_access ha).trans hc) hd, runUndecoded]

/-- The six read-only registers by offset (R21). -/
theorem exists_readOnly_of_mem {off : Nat} (h : off ∈ [0x2C, 0x34, 0x40, 0x70, 0x74, 0x78]) :
    ∃ r : Reg, r.readOnly = true ∧ off = r.offset := by
  have hmem : off ∈ (Reg.all.filter Reg.readOnly).map Reg.offset := h
  obtain ⟨r, hr, rfl⟩ := List.mem_map.1 hmem
  exact ⟨r, (List.mem_filter.1 hr).2, rfl⟩

/-- Settles O16: such an access has no code or one the decoder refuses, and the refusal is the fault. -/
theorem illegalAccessFaults : Obligations.IllegalAccessFaults := by
  intro a s rest hs hm hsched
  have ha := State.nextMove_of_sched hsched
  have hfault : ∀ x, runIllegal x s.advance = .next { s with sched := rest, faults := [x] } := by
    intro x
    rw [runIllegal_of_unfaulted (by simpa using hs), State.advance_mapped, hm, State.advance_of_sched hsched]
    rfl
  refine ⟨fun h => ?_, fun hw hwe hoff => ?_⟩
  · rw [step_access_badAccess hs ha ?_, hfault]
    obtain hw | hal | hoff := h
    · exact .inl hw
    · exact .inr (Reg.ofOffset_of_unaligned hal)
    · exact .inr (Reg.ofOffset_eq_none.2 hoff)
  · obtain ⟨r, hr, ho⟩ := exists_readOnly_of_mem hoff
    rw [step_access_roWrite hs ha hw hwe ho hr, hfault]

/-! ### A write with a 1 in a reserved bit (R64) -/

theorem Reg.setsReserved_iff {r : Reg} {v : Word} : r.setsReserved v = true ↔ v &&& ~~~r.writeMask ≠ 0#32 := by
  simp [Reg.setsReserved]

/-- The write instructions of the table of reserved bits: each writes a register that takes a value, and the bits listed
are those outside what a write of it may set. -/
theorem reservedBitsOf_spec {p : (Word → Instr) × Word} (hp : p ∈ reservedBitsOf) :
    ∃ r : Reg, r.readOnly = false ∧ p.2 = ~~~r.writeMask ∧ ∀ v, Instr.ofWrite r v = .ok (p.1 v) := by
  simp only [reservedBitsOf, List.mem_cons, List.not_mem_nil, or_false] at hp
  obtain rfl | rfl | rfl | rfl | rfl | rfl | rfl | rfl | rfl | rfl | rfl | rfl := hp
  · exact ⟨.con, rfl, rfl, fun _ => rfl⟩
  · exact ⟨.tar, rfl, rfl, fun _ => rfl⟩
  · exact ⟨.sar, rfl, rfl, fun _ => rfl⟩
  · exact ⟨.dataCmd, rfl, rfl, fun _ => rfl⟩
  · exact ⟨.ssHcnt, rfl, rfl, fun _ => rfl⟩
  · exact ⟨.ssLcnt, rfl, rfl, fun _ => rfl⟩
  · exact ⟨.fsHcnt, rfl, rfl, fun _ => rfl⟩
  · exact ⟨.fsLcnt, rfl, rfl, fun _ => rfl⟩
  · exact ⟨.intrMask, rfl, rfl, fun _ => rfl⟩
  · exact ⟨.rxTl, rfl, rfl, fun _ => rfl⟩
  · exact ⟨.txTl, rfl, rfl, fun _ => rfl⟩
  · exact ⟨.enable, rfl, rfl, fun _ => rfl⟩

/-- No register's own rule raises RESERVED_BITS. -/
theorem Reg.writeFault_ne_reservedBits (r : Reg) (v : Word) (s : State) : r.writeFault v s ≠ some .reservedBits := by
  cases r with
  | con =>
    dsimp only [Reg.writeFault]
    split
    · exact nofun
    · split <;> exact nofun
  | tar | sar | dataCmd | ssHcnt | ssLcnt | fsHcnt | fsLcnt | enable =>
    dsimp only [Reg.writeFault]
    split <;> exact nofun
  | intrMask | rxTl | txTl | intrStat | rawIntrStat | clrIntr | status | txflr | rxflr => exact nofun

/-- RESERVED_BITS is the first fault of a write exactly where the window is mapped, the register takes a value and the
value has a 1 in a reserved bit of it (R68). -/
theorem Reg.firstWriteFault_eq_reservedBits {r : Reg} {v : Word} {s : State} :
    r.firstWriteFault v s = some .reservedBits ↔
      s.mapped = true ∧ r.readOnly = false ∧ v &&& ~~~r.writeMask ≠ 0#32 := by
  rw [← Reg.setsReserved_iff]
  unfold Reg.firstWriteFault
  split
  next hm => simp_all
  next hm =>
    split
    next hr => simp [hr]
    next hr =>
      split
      next hv => simp_all
      next hv => simp [hv, r.writeFault_ne_reservedBits]

theorem pushToken_faults (depth : Nat) (s : State) (tok : Token) : (pushToken depth s tok).faults = s.faults := by
  unfold pushToken
  split <;> rfl

theorem Reg.writeEffect_faults (r : Reg) (v : Word) (s : State) : (r.writeEffect v s).faults = s.faults := by
  unfold Reg.writeEffect
  split
  case h_1 => exact pushToken_faults _ s _
  case h_2 => dsimp only; split <;> rfl
  all_goals rfl

/-- Settles O13: `Reg.firstWriteFault_eq_reservedBits` says when a write is that fault. -/
theorem reservedBitsFault : Obligations.ReservedBitsFault := by
  intro p hp v s hs hm
  obtain ⟨r, hr, hbits, hi⟩ := reservedBitsOf_spec hp
  rw [(exec_of_ofWrite (hi v)).2 s, hbits]
  refine ⟨fun hv => ?_, fun hv t ht hmem => ?_⟩
  · exact runWrite_of_firstWriteFault hs (Reg.firstWriteFault_eq_reservedBits.2 ⟨hm, hr, hv⟩)
  · obtain ⟨-, ⟨x, hx, rfl⟩ | ⟨-, rfl⟩⟩ := runWrite_next.1 ht
    · rw [State.raise_of_unfaulted hs] at hmem
      obtain rfl := List.mem_singleton.1 hmem
      exact (Reg.firstWriteFault_eq_reservedBits.1 hx).2.2 hv
    · rw [State.record_faults, Reg.writeEffect_faults, hs] at hmem
      cases hmem

end Sys2Proof.Machine
end

section
/-! PROOFS. What a step does to the storage registers (20_memory.md R64, R68): nothing, or one register's defined bits
are stored. -/

namespace Sys2Proof.Machine

/-- The storage registers of `t` are those of `s`, but that a value may have been stored in one of them, its reserved
bits left out (R64). -/
def State.StoresDefined (s t : State) : Prop :=
  t.regs = s.regs ∨ ∃ (r : Reg) (v : Word), t.regs = s.regs.set r (v &&& r.writeMask)

/-! ### Register accesses -/

theorem pushToken_regs (depth : Nat) (s : State) (tok : Token) : (pushToken depth s tok).regs = s.regs := by
  unfold pushToken
  split <;> rfl

theorem Reg.readEffect_regs (r : Reg) (s : State) : (r.readEffect s).regs = s.regs := by
  unfold Reg.readEffect
  split
  case h_1 => split <;> rfl
  all_goals rfl

/-- A write stores the defined bits, and a register without storage takes none of them. -/
theorem Reg.writeEffect_regs (r : Reg) (v : Word) (s : State) :
    (r.writeEffect v s).regs = s.regs.set r (v &&& r.writeMask) := by
  unfold Reg.writeEffect
  split
  case h_1 => exact pushToken_regs _ s _
  case h_2 => dsimp only; split <;> rfl
  all_goals rfl

theorem runRead_regs {r : Reg} {s t : State} (h : runRead r s = .next t) : t.regs = s.regs := by
  obtain ⟨-, ⟨x, -, rfl⟩ | ⟨-, rfl⟩⟩ := runRead_next.1 h
  · exact s.raise_regs x
  · exact r.readEffect_regs s

theorem runWrite_storesDefined {r : Reg} {v : Word} {s t : State} (h : runWrite r v s = .next t) :
    s.StoresDefined t := by
  obtain ⟨-, ⟨x, -, rfl⟩ | ⟨-, rfl⟩⟩ := runWrite_next.1 h
  · exact .inl (s.raise_regs x)
  · exact .inr ⟨r, v, r.writeEffect_regs v s⟩

/-! ### The engine's steps (R180) -/

theorem engineRead_regs {r : Reg} {after : Word → State → State} {s t : State}
    (hafter : ∀ (v : Word) (u : State), (after v u).regs = u.regs) (h : engineRead r after s = .next t) :
    t.regs = s.regs := by
  obtain ⟨x, -, rfl⟩ | ⟨-, rfl⟩ := engineRead_next.1 h
  · exact s.raise_regs x
  · exact (hafter _ _).trans (r.readEffect_regs s)

theorem engineWrite_storesDefined {r : Reg} {v : Word} {after : State → State} {s t : State}
    (hafter : ∀ u : State, (after u).regs = u.regs) (h : engineWrite r v after s = .next t) : s.StoresDefined t := by
  obtain ⟨x, -, rfl⟩ | ⟨-, rfl⟩ := engineWrite_next.1 h
  · exact .inl (s.raise_regs x)
  · exact .inr ⟨r, v, (hafter _).trans (r.writeEffect_regs v s)⟩

theorem pollAfter_regs (bound : Nat) (k : Wait) (success : Word → Bool) (next : Phase) (v : Word) (s : State) :
    (pollAfter bound k success next v s).regs = s.regs := by
  unfold pollAfter
  split
  · rfl
  · split <;> rfl

theorem poll_regs {bound : Nat} {k : Wait} {success : Word → Bool} {next : Phase} {s t : State}
    (h : poll bound k success next s = .next t) : t.regs = s.regs :=
  engineRead_regs (pollAfter_regs bound k success next) h

theorem toPhase_regs (p : Phase) (s : State) : (toPhase p s).regs = s.regs := rfl

theorem commitConfig_regs (s : State) : (commitConfig s).regs = s.regs := rfl

theorem afterAddress_regs (wlen : Nat) (s : State) : (afterAddress wlen s).regs = s.regs := rfl

theorem afterPush_regs (wlen rlen : Nat) (s : State) : (afterPush wlen rlen s).regs = s.regs := by
  unfold afterPush
  split
  · rfl
  · split <;> rfl

theorem afterPop_regs (rlen : Nat) (v : Word) (s : State) : (afterPop rlen v s).regs = s.regs := by
  unfold afterPop
  dsimp only
  split <;> rfl

theorem validateInit_regs (p : Params) (f : Nat) (s : State) : (validateInit p f s).regs = s.regs := by
  unfold validateInit
  split
  · rfl
  · split <;> rfl

theorem validateSetSpeed_regs (p : Params) (f : Nat) (s : State) : (validateSetSpeed p f s).regs = s.regs := by
  unfold validateSetSpeed
  split
  · rfl
  · split <;> rfl

theorem validateExecute_regs (maxLen : Option Nat) (addr : Nat) (tenBit : Bool) (wdata : List Byte) (rlen : Nat)
    (s : State) : (validateExecute maxLen addr tenBit wdata rlen s).regs = s.regs := by
  unfold validateExecute
  dsimp only
  split
  · rfl
  · split <;> rfl

theorem hold_regs {s t : State} (h : hold s = .next t) : t.regs = s.regs :=
  congrArg State.regs (hold_next.1 h)

theorem cfgStep_storesDefined {s t : State} (h : cfgStep s = .next t) : s.StoresDefined t := by
  unfold cfgStep at h
  split at h
  case h_8 => exact engineWrite_storesDefined commitConfig_regs h
  case h_9 => exact .inl (hold_regs h)
  all_goals exact engineWrite_storesDefined (toPhase_regs _) h

/-- A request served stores what its step stores. -/
theorem whileServing_storesDefined {q : Request} {s t : State} {o : Outcome} (ho : o = .next t → s.StoresDefined t)
    (h : whileServing q s o = .next t) : s.StoresDefined t := by
  obtain ⟨-, ⟨-, h⟩ | ⟨-, rfl⟩⟩ := whileServing_next.1 h
  · exact ho h
  · exact .inl rfl

theorem execInit_storesDefined {f : Nat} {s t : State} (h : execInit f s = .next t) : s.StoresDefined t := by
  refine whileServing_storesDefined (fun h => ?_) h
  split at h
  · cases h
    exact .inl (validateInit_regs _ f s)
  · exact cfgStep_storesDefined h

theorem execSetSpeed_storesDefined {f : Nat} {s t : State} (h : execSetSpeed f s = .next t) : s.StoresDefined t := by
  refine whileServing_storesDefined (fun h => ?_) h
  split at h
  · cases h
    exact .inl (validateSetSpeed_regs _ f s)
  · exact .inl (poll_regs h)
  · exact cfgStep_storesDefined h

theorem execExecute_storesDefined {addr : Nat} {tenBit : Bool} {wdata : List Byte} {rlen : Nat} {s t : State}
    (h : execExecute addr tenBit wdata rlen s = .next t) : s.StoresDefined t := by
  refine whileServing_storesDefined (fun h => ?_) h
  split at h
  · cases h
    exact .inl (validateExecute_regs _ addr tenBit wdata rlen s)
  · exact .inl (poll_regs h)
  · exact engineWrite_storesDefined (afterAddress_regs _) h
  · exact .inl (poll_regs h)
  · split at h
    · exact engineWrite_storesDefined (afterPush_regs _ _) h
    · exact .inl (hold_regs h)
  · exact .inl (poll_regs h)
  · exact engineWrite_storesDefined (toPhase_regs _) h
  · exact .inl (poll_regs h)
  · exact .inl (engineRead_regs (afterPop_regs rlen) h)
  · exact .inl (hold_regs h)

/-! ### The wire agent, the lock and the requesters store nothing -/

theorem execWtok_regs {b : Byte} {s t : State} (h : execWtok b s = .next t) : t.regs = s.regs := by
  obtain rfl | ⟨-, rfl⟩ := execWtok_next_cases h <;> rfl

theorem execRtok_regs {d : Byte} {s t : State} (h : execRtok d s = .next t) : t.regs = s.regs := by
  obtain rfl | ⟨-, rfl⟩ := execRtok_next_cases h <;> rfl

theorem wireTake_regs {s t : State} (h : wireTake s = .next t) : t.regs = s.regs := by
  obtain rfl | ⟨tok, rest, -, -, -, rfl⟩ := wireTake_next_cases h <;> rfl

theorem wireEnd_regs {s t : State} (h : wireEnd s = .next t) : t.regs = s.regs := by
  obtain rfl | ⟨-, rfl⟩ := wireEnd_next_cases h <;> rfl

theorem wireAbort_regs {mayAbort : Bool} {s t : State} (h : wireAbort mayAbort s = .next t) : t.regs = s.regs := by
  obtain rfl | ⟨-, rfl⟩ := wireAbort_next_cases h <;> rfl

theorem grant_regs {order : LockOrder} {r : Requester} {s t : State} (h : grant order r s = .next t) :
    t.regs = s.regs := by
  obtain rfl | ⟨q, -, -, -, -, rfl⟩ := grant_next_cases h <;> rfl

theorem release_regs {s t : State} (h : release s = .next t) : t.regs = s.regs := by
  obtain rfl | ⟨r, res, -, -, -, rfl⟩ := release_next_cases h <;> rfl

theorem issueRecord_regs {r : Requester} {rec : ReqRecord} {s t : State} (h : issueRecord r rec s = .next t) :
    t.regs = s.regs := by
  obtain rfl | ⟨q, -, -, rfl⟩ := issueRecord_next_cases h <;> rfl

theorem collect_regs {r : Requester} {s t : State} (h : collect r s = .next t) : t.regs = s.regs := by
  obtain rfl | ⟨res, -, rfl⟩ := collect_next_cases h <;> rfl

theorem callHelper_regs {r : Requester} {addr : BitVec 7} {hp : Helper} {s t : State}
    (h : callHelper r addr hp s = .next t) : t.regs = s.regs := by
  obtain rfl | ⟨-, ⟨q, -, rfl⟩ | ⟨res, -, rfl⟩⟩ := callHelper_next_cases h <;> rfl

/-! ### The step -/

theorem exec_storesDefined {i : Instr} {s t : State} (h : exec i s = .next t) : s.StoresDefined t := by
  cases i with
  | rdCon | rdTar | rdSar | rdDataCmd | rdSsHcnt | rdSsLcnt | rdFsHcnt | rdFsLcnt | rdIntrStat | rdIntrMask
  | rdRawIntrStat | rdRxTl | rdTxTl | rdClrIntr | rdEnable | rdStatus | rdTxflr | rdRxflr =>
    exact .inl (runRead_regs h)
  | wrCon | wrTar | wrSar | wrDataCmd | wrSsHcnt | wrSsLcnt | wrFsHcnt | wrFsLcnt | wrIntrMask | wrRxTl | wrTxTl
  | wrEnable => exact runWrite_storesDefined h
  | wtok dat => exact .inl (execWtok_regs h)
  | rtok dat => exact .inl (execRtok_regs h)
  | init f => exact execInit_storesDefined h
  | setSpeed f => exact execSetSpeed_storesDefined h
  | execute addr tenBit wdata rlen => exact execExecute_storesDefined h

theorem runIllegal_regs {x : FaultReason} {s t : State} (h : runIllegal x s = .next t) : t.regs = s.regs := by
  obtain ⟨-, h⟩ := whenRunning_next.1 h
  cases h
  exact s.raise_regs _

theorem runUndecoded_regs {e : DecodeError} {s t : State} (h : runUndecoded e s = .next t) : t.regs = s.regs := by
  cases e with
  | badAccess | roWrite | reservedBits => exact runIllegal_regs h
  | reservedKind => cases (whenRunning_next.1 h).2

theorem runMove_regs {m : Move} {s t : State} (h : runMove m s = .next t) : t.regs = s.regs := by
  cases m with
  | access a => exact runIllegal_regs h
  | engine | wComplete => exact hold_regs (whenRunning_next.1 h).2
  | wTake => exact wireTake_regs h
  | wEnd => exact wireEnd_regs h
  | wAbort => exact wireAbort_regs h
  | grant r => exact grant_regs h
  | release => exact release_regs h
  | issue r rec => exact issueRecord_regs h
  | collect r => exact collect_regs h
  | helper r addr hp => exact callHelper_regs h

/-- Choosing the move stores nothing. -/
theorem State.StoresDefined.of_advance {s t : State} (h : s.advance.StoresDefined t) : s.StoresDefined t := by
  rwa [State.StoresDefined, State.advance_regs] at h

theorem step_storesDefined {s t : State} (h : step s = .next t) : s.StoresDefined t := by
  obtain ⟨-, ⟨c, i, -, -, h⟩ | ⟨c, e, -, -, h⟩ | ⟨-, h⟩⟩ := step_next_cases h
  · exact .of_advance (exec_storesDefined h)
  · exact .of_advance (.inl (runUndecoded_regs h))
  · exact .of_advance (.inl (runMove_regs h))

/-! ### The reserved bits -/

/-- Storing a value without the register's reserved bits leaves every reserved bit clear: the stored register's clause
asks for `v &&& (writeMask &&& reserved) = 0`, two disjoint masks, and the other clauses are those of `g`. -/
theorem Regs.ReservedClear.set {g : Regs} (h : g.ReservedClear) (r : Reg) (v : Word) :
    (g.set r (v &&& r.writeMask)).ReservedClear := by
  unfold Regs.ReservedClear at h ⊢
  cases r <;> simp_all [Regs.set, Reg.writeMask, BitVec.and_assoc]

/-- Settles O46: what a step stores has its reserved bits left out (`step_storesDefined`). -/
theorem reservedBitsStayClear : Obligations.ReservedBitsStayClear := by
  intro s t hs h
  unfold ReservedBitsClear at hs ⊢
  obtain hregs | ⟨r, v, hregs⟩ := step_storesDefined h
  · rwa [hregs]
  · rw [hregs]
    exact hs.set r v

end Sys2Proof.Machine
end

section
/-! PROOFS. The round trips of the three formats (30_encoding.md R80 to R83, R89, R90): what each instruction encodes to,
and which codes of each format decode. -/

namespace Sys2Proof.Machine

/-! ### What an instruction encodes to -/

theorem encode_ofRead (r : Reg) : encode (.ofRead r) = .reg (regWord false r.offset) 0 := by
  cases r <;> rfl

theorem encode_of_ofWrite {r : Reg} {v : Word} {i : Instr} (h : Instr.ofWrite r v = .ok i) :
    encode i = .reg (regWord true r.offset) v := by
  cases r with
  | intrStat | rawIntrStat | clrIntr | status | txflr | rxflr => cases h
  | con | tar | sar | dataCmd | ssHcnt | ssLcnt | fsHcnt | fsLcnt | intrMask | rxTl | txTl | enable =>
    cases h
    rfl

theorem encode_tokenInstr (t : Token) : encode t.instr = t.code := by
  obtain ⟨cmd, dat⟩ := t
  cases cmd <;> rfl

theorem encode_requestInstr (q : Request) : encode q.instr = .req q.record := by
  cases q <;> rfl

/-! ### Decoding an encoding -/

theorem decode_regWord_read (r : Reg) (v : Word) :
    decode (.reg (regWord false r.offset) v) = .ok (.ofRead r) := by
  obtain ⟨hoff, hwe⟩ := regWord_fields false r.offset r.offset_lt_window
  simp only [decode, decodeReg, hoff, hwe, r.ofOffset_offset]
  rfl

/-- An instruction of the table that is no register access is a token's or a request's (R89). -/
theorem token_or_request_of_not_isAccess {i : Instr} (h : isAccess i = false) :
    (∃ t : Token, i = t.instr) ∨ ∃ q : Request, i = q.instr := by
  cases i with
  | wtok dat => exact .inl ⟨⟨false, dat⟩, rfl⟩
  | rtok dat => exact .inl ⟨⟨true, dat⟩, rfl⟩
  | init f => exact .inr ⟨.init f, rfl⟩
  | setSpeed f => exact .inr ⟨.setSpeed f, rfl⟩
  | execute addr tenBit wdata rlen => exact .inr ⟨.execute addr tenBit wdata rlen, rfl⟩
  | _ => cases h

/-- Settles O57: an instruction is the read or the write of a register, a token's or a request's, and each of the four
kinds decodes from its own encoding. -/
theorem decodeEncodeAgree : Obligations.DecodeEncodeAgree := by
  intro i
  cases ha : isAccess i with
  | true =>
    obtain ⟨r, rfl⟩ | ⟨r, v, hi⟩ := isAccess_cases ha
    · rw [encode_ofRead, decode_regWord_read]
    · rw [encode_of_ofWrite hi, decode_regWord_write, hi]
  | false =>
    obtain ⟨t, rfl⟩ | ⟨q, rfl⟩ := token_or_request_of_not_isAccess ha
    · rw [encode_tokenInstr, decode_tokenCode]
    · rw [encode_requestInstr, decode_record]

/-! ### The codes that decode -/

theorem Reg.offset_of_ofOffset {off : Nat} {r : Reg} (h : Reg.ofOffset off = some r) : r.offset = off := by
  simpa using List.find?_some h

/-- A REG word is its WE bit above its offset (R80). -/
theorem regWord_of_fields (word : BitVec 13) :
    regWord (word.getLsbD 12) (word.extractLsb' 0 12).toNat = word := by
  refine BitVec.eq_of_getLsbD_eq fun k hk => ?_
  rw [regWord_getLsbD, BitVec.ofNat_toNat, BitVec.setWidth_eq]
  by_cases h : k < 12
  · simp [h]
  · obtain rfl : k = 12 := by omega
    simp

/-- A token's value is its fields with bits 31:9 clear (R81, R83). -/
theorem tokenWord_of_fields {v : Word} (h : v.extractLsb' 9 23 = 0#23) :
    tokenWord (v.getLsbD 8) (v.extractLsb' 0 8) = v := by
  refine BitVec.eq_of_getLsbD_eq fun k hk => ?_
  rw [tokenWord_getLsbD]
  by_cases h8 : k < 8
  · simp [h8]
  · obtain rfl | h9 : k = 8 ∨ 9 ≤ k := by omega
    · simp
    · have hbit : v.getLsbD k = (v.extractLsb' 9 23).getLsbD (k - 9) := by
        simp [Nat.add_sub_cancel' h9, show k - 9 < 23 by omega]
      simp [hbit, h, h8, show k ≠ 8 by omega]

/-- A REG word that decodes is the word of one register's read, or of one register's write. -/
theorem decode_reg_eq_ok {word : BitVec 13} {v : Word} {i : Instr} (h : decode (.reg word v) = .ok i) :
    ∃ r : Reg, (word = regWord false r.offset ∧ i = .ofRead r) ∨
      (word = regWord true r.offset ∧ Instr.ofWrite r v = .ok i) := by
  have hword := regWord_of_fields word
  simp only [decode, decodeReg] at h
  cases hr : Reg.ofOffset (word.extractLsb' 0 12).toNat with
  | none =>
    rw [hr] at h
    cases h
  | some r =>
    rw [← Reg.offset_of_ofOffset hr] at hword
    rw [hr] at h
    refine ⟨r, ?_⟩
    cases hwe : word.getLsbD 12 with
    | false =>
      rw [hwe] at hword h
      exact .inl ⟨hword.symm, (Except.ok.inj h).symm⟩
    | true =>
      rw [hwe] at hword h
      exact .inr ⟨hword.symm, h⟩

theorem decode_token_eq_ok {v : Word} {i : Instr} (h : decode (.token v) = .ok i) :
    (tokenOf v).code = .token v ∧ i = (tokenOf v).instr := by
  have hv : v.extractLsb' 9 23 = 0#23 := by
    by_contra hne
    simp [decode, decodeToken, hne] at h
  have hcode : (tokenOf v).code = .token v := congrArg Code.token (tokenWord_of_fields hv)
  refine ⟨hcode, ?_⟩
  rw [← hcode, decode_tokenCode] at h
  exact (Except.ok.inj h).symm

/-- A REQ record that decodes is a request's, but for the fields its kind does not use (R82). -/
theorem decode_req_eq_ok {rec : ReqRecord} {i : Instr} (h : decode (.req rec) = .ok i) :
    (rec.kind = 0#2 ∧ i = Request.instr (.init rec.fTarget)) ∨
      (rec.kind = 1#2 ∧ i = Request.instr (.setSpeed rec.fTarget)) ∨
      (rec.kind = 2#2 ∧ i = Request.instr (.execute rec.addr rec.tenBit rec.wdata rec.rlen)) := by
  simp only [decode, decodeReq] at h
  split at h
  next hk => exact .inl ⟨hk, (Except.ok.inj h).symm⟩
  split at h
  next hk => exact .inr (.inl ⟨hk, (Except.ok.inj h).symm⟩)
  split at h
  next hk => exact .inr (.inr ⟨hk, (Except.ok.inj h).symm⟩)
  cases h

/-- Settles O58: the inversion of the decoder, format by format, names the instruction, whose encoding is known. -/
theorem encodeDecodeAgree : Obligations.EncodeDecodeAgree := by
  intro c i h
  cases c with
  | reg word v =>
    obtain ⟨r, ⟨rfl, rfl⟩ | ⟨rfl, hi⟩⟩ := decode_reg_eq_ok h
    · rw [encode_ofRead]
      refine ⟨rfl, fun hwe => ?_⟩
      rw [(regWord_fields false r.offset r.offset_lt_window).2] at hwe
      cases hwe
    · rw [encode_of_ofWrite hi]
      exact ⟨rfl, fun _ => rfl⟩
  | token v =>
    obtain ⟨hcode, rfl⟩ := decode_token_eq_ok h
    rw [encode_tokenInstr, hcode]
  | req rec =>
    obtain ⟨hk, rfl⟩ | ⟨hk, rfl⟩ | ⟨hk, rfl⟩ := decode_req_eq_ok h <;> rw [encode_requestInstr]
    · exact ⟨hk.symm, fun _ => rfl, fun h2 => by simp [hk] at h2⟩
    · exact ⟨hk.symm, fun _ => rfl, fun h2 => by simp [hk] at h2⟩
    · exact ⟨hk.symm, fun h01 => by simp [hk] at h01, fun _ => ⟨rfl, rfl, rfl, rfl⟩⟩

/-! ### The sample words -/

/-- Settles O59: the legal words are the encodings of the instructions they stand for, and each illegal one meets the
decoder's check that names it. -/
theorem sampleWordsDecode : Obligations.SampleWordsDecode :=
  have legal := decodeEncodeAgree
  ⟨legal .rdTar, legal .rdDataCmd, legal .rdStatus, legal (.wrCon 0x63#32), legal (.wrEnable 1#32), legal (.wtok 0x5A#8),
    legal (.rtok 0#8), legal (.rtok 0xFF#8), rfl, rfl, rfl, rfl, legal (.setSpeed 400000), rfl⟩

end Sys2Proof.Machine
end

section
/-! PROOFS. The FIFOs and the wire agent under every step (10_state.md R36, R37, 40_register_window.md R126, R130,
42_fifo_interface.md R163): what a step can do to them, and the invariants that this keeps. -/

namespace Sys2Proof.Machine

/-- The storage registers, the FIFOs, the wire agent and the parameters of `t` are those of `s`. -/
structure State.SameSerial (s t : State) : Prop where
  regs : t.regs = s.regs := by rfl
  txFifo : t.txFifo = s.txFifo := by rfl
  rxFifo : t.rxFifo = s.rxFifo := by rfl
  wire : t.wire = s.wire := by rfl
  params : t.params = s.params := by rfl

/-- All that a step can do to the storage registers, the FIFOs and the wire agent: nothing; what one register access
that does not fault does; or, on an enabled controller, what the wire agent does: it takes tokens from the TX FIFO and
puts at most one byte into the RX FIFO, where there is room. -/
inductive State.SerialStep (s t : State) : Prop
  | same (h : s.SameSerial t)
  | read (r : Reg) (hr : r.readFault s = none) (h : (r.readEffect s).SameSerial t)
  | write (r : Reg) (v : Word) (hw : r.firstWriteFault v s = none) (h : (r.writeEffect v s).SameSerial t)
  | agent (he : s.wireEnabled = true) (hregs : t.regs = s.regs) (hparams : t.params = s.params)
      (htx : t.txFifo <:+ s.txFifo)
      (hrx : t.rxFifo = s.rxFifo ∨ s.rxFifo.length < s.params.rxDepth ∧ ∃ b, t.rxFifo = s.rxFifo ++ [b])

namespace State.SameSerial

theorem trans {s t u : State} (hst : s.SameSerial t) (htu : t.SameSerial u) : s.SameSerial u where
  regs := htu.regs.trans hst.regs
  txFifo := htu.txFifo.trans hst.txFifo
  rxFifo := htu.rxFifo.trans hst.rxFifo
  wire := htu.wire.trans hst.wire
  params := htu.params.trans hst.params

theorem raise (s : State) (x : FaultReason) : s.SameSerial (s.raise x) where
  regs := s.raise_regs x
  txFifo := s.raise_txFifo x
  rxFifo := s.raise_rxFifo x
  wire := s.raise_wire x
  params := s.raise_params x

theorem advance (s : State) : s.SameSerial s.advance where
  regs := s.advance_regs
  txFifo := s.advance_txFifo
  rxFifo := s.advance_rxFifo
  wire := s.advance_wire
  params := s.advance_params

end State.SameSerial

/-! ### Register accesses -/

theorem runRead_serialStep {r : Reg} {s t : State} (h : runRead r s = .next t) : s.SerialStep t := by
  obtain ⟨-, ⟨x, -, rfl⟩ | ⟨hr, rfl⟩⟩ := runRead_next.1 h
  · exact .same (.raise s x)
  · exact .read r hr {}

theorem runWrite_serialStep {r : Reg} {v : Word} {s t : State} (h : runWrite r v s = .next t) : s.SerialStep t := by
  obtain ⟨-, ⟨x, -, rfl⟩ | ⟨hw, rfl⟩⟩ := runWrite_next.1 h
  · exact .same (.raise s x)
  · exact .write r v hw {}

theorem runIllegal_serialStep {x : FaultReason} {s t : State} (h : runIllegal x s = .next t) : s.SerialStep t := by
  obtain ⟨-, h⟩ := whenRunning_next.1 h
  cases h
  exact .same (.raise s _)

/-! ### The engine's steps: an access, then a change of the engine's registers (R180) -/

theorem engineRead_serialStep {r : Reg} {after : Word → State → State} {s t : State}
    (hafter : ∀ (v : Word) (u : State), u.SameSerial (after v u)) (h : engineRead r after s = .next t) :
    s.SerialStep t := by
  obtain ⟨x, -, rfl⟩ | ⟨hr, rfl⟩ := engineRead_next.1 h
  · exact .same (.raise s x)
  · exact .read r hr (.trans {} (hafter _ _))

theorem engineWrite_serialStep {r : Reg} {v : Word} {after : State → State} {s t : State}
    (hafter : ∀ u : State, u.SameSerial (after u)) (h : engineWrite r v after s = .next t) : s.SerialStep t := by
  obtain ⟨x, -, rfl⟩ | ⟨hw, rfl⟩ := engineWrite_next.1 h
  · exact .same (.raise s x)
  · exact .write r v hw (.trans {} (hafter _))

theorem pollAfter_sameSerial (bound : Nat) (k : Wait) (success : Word → Bool) (next : Phase) (v : Word) (s : State) :
    s.SameSerial (pollAfter bound k success next v s) := by
  unfold pollAfter
  split
  · exact {}
  · split <;> exact {}

theorem poll_serialStep {bound : Nat} {k : Wait} {success : Word → Bool} {next : Phase} {s t : State}
    (h : poll bound k success next s = .next t) : s.SerialStep t :=
  engineRead_serialStep (pollAfter_sameSerial bound k success next) h

theorem afterPush_sameSerial (wlen rlen : Nat) (s : State) : s.SameSerial (afterPush wlen rlen s) := by
  unfold afterPush
  split
  · exact {}
  · split <;> exact {}

theorem afterPop_sameSerial (rlen : Nat) (v : Word) (s : State) : s.SameSerial (afterPop rlen v s) := by
  unfold afterPop
  dsimp only
  split <;> exact {}

theorem validateInit_sameSerial (p : Params) (f : Nat) (s : State) : s.SameSerial (validateInit p f s) := by
  unfold validateInit
  split
  · exact {}
  · split <;> exact {}

theorem validateSetSpeed_sameSerial (p : Params) (f : Nat) (s : State) : s.SameSerial (validateSetSpeed p f s) := by
  unfold validateSetSpeed
  split
  · exact {}
  · split <;> exact {}

theorem validateExecute_sameSerial (maxLen : Option Nat) (addr : Nat) (tenBit : Bool) (wdata : List Byte) (rlen : Nat)
    (s : State) : s.SameSerial (validateExecute maxLen addr tenBit wdata rlen s) := by
  unfold validateExecute
  dsimp only
  split
  · exact {}
  · split <;> exact {}

theorem hold_serialStep {s t : State} (h : hold s = .next t) : s.SerialStep t := by
  obtain rfl := hold_next.1 h
  exact .same {}

theorem cfgStep_serialStep {s t : State} (h : cfgStep s = .next t) : s.SerialStep t := by
  unfold cfgStep at h
  split at h
  case h_9 => exact hold_serialStep h
  all_goals exact engineWrite_serialStep (fun _ => {}) h

/-- A request served does to the serial side what its step does. -/
theorem whileServing_serialStep {q : Request} {s t : State} {o : Outcome} (ho : o = .next t → s.SerialStep t)
    (h : whileServing q s o = .next t) : s.SerialStep t := by
  obtain ⟨-, ⟨-, h⟩ | ⟨-, rfl⟩⟩ := whileServing_next.1 h
  · exact ho h
  · exact .same {}

theorem execInit_serialStep {f : Nat} {s t : State} (h : execInit f s = .next t) : s.SerialStep t := by
  refine whileServing_serialStep (fun h => ?_) h
  split at h
  · cases h
    exact .same (validateInit_sameSerial _ f s)
  · exact cfgStep_serialStep h

theorem execSetSpeed_serialStep {f : Nat} {s t : State} (h : execSetSpeed f s = .next t) : s.SerialStep t := by
  refine whileServing_serialStep (fun h => ?_) h
  split at h
  · cases h
    exact .same (validateSetSpeed_sameSerial _ f s)
  · exact poll_serialStep h
  · exact cfgStep_serialStep h

theorem execExecute_serialStep {addr : Nat} {tenBit : Bool} {wdata : List Byte} {rlen : Nat} {s t : State}
    (h : execExecute addr tenBit wdata rlen s = .next t) : s.SerialStep t := by
  refine whileServing_serialStep (fun h => ?_) h
  split at h
  · cases h
    exact .same (validateExecute_sameSerial _ addr tenBit wdata rlen s)
  · exact poll_serialStep h
  · exact engineWrite_serialStep (fun _ => {}) h
  · exact poll_serialStep h
  · split at h
    · exact engineWrite_serialStep (afterPush_sameSerial _ _) h
    · exact hold_serialStep h
  · exact poll_serialStep h
  · exact engineWrite_serialStep (fun _ => {}) h
  · exact poll_serialStep h
  · exact engineRead_serialStep (afterPop_sameSerial rlen) h
  · exact hold_serialStep h

/-! ### The wire agent (R163 to R169) -/

theorem execWtok_serialStep {b : Byte} {s t : State} (h : execWtok b s = .next t) : s.SerialStep t := by
  obtain rfl | ⟨hg, rfl⟩ := execWtok_next_cases h
  · exact .same {}
  · simp only [sendEnabled, Bool.and_eq_true] at hg
    exact .agent hg.1 rfl rfl List.suffix_rfl (.inl rfl)

theorem execRtok_serialStep {d : Byte} {s t : State} (h : execRtok d s = .next t) : s.SerialStep t := by
  obtain rfl | ⟨hg, rfl⟩ := execRtok_next_cases h
  · exact .same {}
  · simp only [recvEnabled, Bool.and_eq_true, decide_eq_true_eq] at hg
    obtain ⟨⟨he, -⟩, hroom⟩ := hg
    exact .agent he rfl rfl List.suffix_rfl (.inr ⟨hroom, _, rfl⟩)

theorem wireTake_serialStep {s t : State} (h : wireTake s = .next t) : s.SerialStep t := by
  obtain rfl | ⟨tok, rest, htx, he, -, rfl⟩ := wireTake_next_cases h
  · exact .same {}
  · exact .agent he rfl rfl (htx ▸ List.suffix_cons tok rest) (.inl rfl)

theorem wireEnd_serialStep {s t : State} (h : wireEnd s = .next t) : s.SerialStep t := by
  obtain rfl | ⟨hg, rfl⟩ := wireEnd_next_cases h
  · exact .same {}
  · simp only [Bool.and_eq_true] at hg
    obtain ⟨⟨⟨he, -⟩, -⟩, -⟩ := hg
    exact .agent he rfl rfl List.suffix_rfl (.inl rfl)

theorem wireAbort_serialStep {mayAbort : Bool} {s t : State} (h : wireAbort mayAbort s = .next t) :
    s.SerialStep t := by
  obtain rfl | ⟨hg, rfl⟩ := wireAbort_next_cases h
  · exact .same {}
  · simp only [Bool.and_eq_true] at hg
    obtain ⟨⟨he, -⟩, -⟩ := hg
    exact .agent he rfl rfl List.nil_suffix (.inl rfl)

/-! ### The step -/

theorem exec_serialStep {i : Instr} {s t : State} (h : exec i s = .next t) : s.SerialStep t := by
  cases i with
  | rdCon | rdTar | rdSar | rdDataCmd | rdSsHcnt | rdSsLcnt | rdFsHcnt | rdFsLcnt | rdIntrStat | rdIntrMask
  | rdRawIntrStat | rdRxTl | rdTxTl | rdClrIntr | rdEnable | rdStatus | rdTxflr | rdRxflr =>
    exact runRead_serialStep h
  | wrCon | wrTar | wrSar | wrDataCmd | wrSsHcnt | wrSsLcnt | wrFsHcnt | wrFsLcnt | wrIntrMask | wrRxTl | wrTxTl
  | wrEnable => exact runWrite_serialStep h
  | wtok dat => exact execWtok_serialStep h
  | rtok dat => exact execRtok_serialStep h
  | init f => exact execInit_serialStep h
  | setSpeed f => exact execSetSpeed_serialStep h
  | execute addr tenBit wdata rlen => exact execExecute_serialStep h

theorem runUndecoded_serialStep {e : DecodeError} {s t : State} (h : runUndecoded e s = .next t) : s.SerialStep t := by
  cases e with
  | badAccess | roWrite | reservedBits => exact runIllegal_serialStep h
  | reservedKind => cases (whenRunning_next.1 h).2

/-- Of the moves that run no instruction only the wire agent's touch the serial side: the lock and the requesters have
no part of it. -/
theorem runMove_serialStep {m : Move} {s t : State} (h : runMove m s = .next t) : s.SerialStep t := by
  cases m with
  | access a => exact runIllegal_serialStep h
  | engine | wComplete => exact hold_serialStep (whenRunning_next.1 h).2
  | wTake => exact wireTake_serialStep h
  | wEnd => exact wireEnd_serialStep h
  | wAbort => exact wireAbort_serialStep h
  | grant r => obtain rfl | ⟨q, -, -, -, -, rfl⟩ := grant_next_cases h <;> exact .same {}
  | release => obtain rfl | ⟨r, res, -, -, -, rfl⟩ := release_next_cases h <;> exact .same {}
  | issue r rec => obtain rfl | ⟨q, -, -, rfl⟩ := issueRecord_next_cases h <;> exact .same {}
  | collect r => obtain rfl | ⟨res, -, rfl⟩ := collect_next_cases h <;> exact .same {}
  | helper r addr hp =>
    obtain rfl | ⟨-, ⟨q, -, rfl⟩ | ⟨res, -, rfl⟩⟩ := callHelper_next_cases h <;> exact .same {}

/-- A step does what `State.SerialStep` says to the state in which its move has been chosen. -/
theorem step_serialStep {s t : State} (h : step s = .next t) : s.advance.SerialStep t := by
  obtain ⟨-, ⟨c, i, -, -, h⟩ | ⟨c, e, -, -, h⟩ | ⟨-, h⟩⟩ := step_next_cases h
  · exact exec_serialStep h
  · exact runUndecoded_serialStep h
  · exact runMove_serialStep h

/-! ### The invariants -/

/-- The two invariants together: the one is needed to keep the other. -/
structure FifoInvariant (s : State) : Prop where
  disabledIsIdle : DisabledIsIdle s
  fifosFit : FifosFit s

namespace FifoInvariant

/-- Both speak only of the storage registers, the FIFOs, the wire agent and the parameters. -/
theorem of_sameSerial {s t : State} (hi : FifoInvariant s) (h : s.SameSerial t) : FifoInvariant t := by
  obtain ⟨hregs, htx, hrx, hwire, hparams⟩ := h
  refine ⟨?_, ?_⟩
  · simpa only [DisabledIsIdle, SerialIdle, hregs, htx, hrx, hwire] using hi.disabledIsIdle
  · simpa only [FifosFit, htx, hrx, hparams] using hi.fifosFit

/-- An enabled controller need not be idle. -/
theorem of_enabled {s : State} (he : s.enabled = true) (hf : FifosFit s) : FifoInvariant s where
  disabledIsIdle hd := absurd (he.symm.trans hd) Bool.noConfusion
  fifosFit := hf

/-- A storage register other than ENABLE is no part of either invariant. -/
theorem set_regs {s : State} (hi : FifoInvariant s) {g : Regs} (hg : g.enable = s.regs.enable) :
    FifoInvariant { s with regs := g } where
  disabledIsIdle hd := hi.disabledIsIdle (hg ▸ hd)
  fifosFit := hi.fifosFit

end FifoInvariant

theorem Reg.writeFault_eq_none {r : Reg} {v : Word} {s : State} (h : r.firstWriteFault v s = none) :
    r.writeFault v s = none := by
  unfold Reg.firstWriteFault at h
  split at h
  · cases h
  · split at h
    · cases h
    · split at h
      · cases h
      · exact h

/-- Only an enabled controller's DATA_CMD is read without a fault (R106). -/
theorem enabled_of_readFault_dataCmd {s : State} (h : Reg.readFault .dataCmd s = none) : s.enabled = true := by
  unfold Reg.readFault at h
  split at h
  · cases h
  · by_contra he
    simp [he] at h

/-- Only an enabled controller's DATA_CMD is written without a fault (R107). -/
theorem enabled_of_writeFault_dataCmd {v : Word} {s : State} (h : Reg.writeFault .dataCmd v s = none) :
    s.enabled = true := by
  by_contra he
  simp [Reg.writeFault, he] at h

/-- ENABLE is written without a fault with bit 0 clear only where the controller is disabled or the bus idle (R126). -/
theorem activity_of_writeFault_enable {v : Word} {s : State} (h : Reg.writeFault .enable v s = none)
    (hv : v.getLsbD 0 = false) : s.enabled = false ∨ s.activity = false := by
  by_contra hne
  simp_all [Reg.writeFault]

namespace FifoInvariant

theorem readEffect {r : Reg} {s : State} (hi : FifoInvariant s) (hr : r.readFault s = none) :
    FifoInvariant (r.readEffect s) := by
  cases r with
  | dataCmd =>
    have he := enabled_of_readFault_dataCmd hr
    unfold Reg.readEffect
    dsimp only
    split
    next b rest hrx =>
      obtain ⟨htxfit, hrxfit⟩ := hi.fifosFit
      rw [hrx] at hrxfit
      exact .of_enabled he ⟨htxfit, Nat.le_of_succ_le hrxfit⟩
    · exact hi.of_sameSerial {}
  | _ => exact hi.of_sameSerial {}

/-- A token is pushed only where there is room (R107). -/
theorem pushToken {s : State} (hi : FifoInvariant s) (he : s.enabled = true) (tok : Token) :
    FifoInvariant (pushToken s.params.txDepth s tok) := by
  unfold Machine.pushToken
  split
  next hroom => exact .of_enabled he ⟨by simpa using hroom, hi.fifosFit.2⟩
  · exact hi.of_sameSerial {}

/-- A write of ENABLE leaves the controller enabled, or empties the FIFOs of one whose bus is idle (R126): where it was
disabled already, the bus is idle by the invariant. -/
theorem writeEffect_enable {v : Word} {s : State} (hi : FifoInvariant s) (hw : Reg.writeFault .enable v s = none) :
    FifoInvariant (Reg.writeEffect .enable v s) := by
  unfold Reg.writeEffect
  dsimp only
  split
  next hv => exact .of_enabled (by simp [State.enabled, Regs.set, Reg.writeMask, hv]) hi.fifosFit
  next hv =>
    have hidle : s.wire.inflight = none ∧ s.wire.busBusy = false := by
      obtain hd | ha := activity_of_writeFault_enable hw (by simpa using hv)
      · exact (hi.disabledIsIdle hd).2.2
      · exact ((activity_eq_false s).1 ha).2
    exact ⟨fun _ => ⟨rfl, rfl, hidle⟩, Nat.zero_le _, Nat.zero_le _⟩

theorem writeEffect {r : Reg} {v : Word} {s : State} (hi : FifoInvariant s) (hw : r.firstWriteFault v s = none) :
    FifoInvariant (r.writeEffect v s) := by
  have hw := Reg.writeFault_eq_none hw
  cases r with
  | dataCmd => exact hi.pushToken (enabled_of_writeFault_dataCmd hw) _
  | enable => exact hi.writeEffect_enable hw
  | con | tar | sar | ssHcnt | ssLcnt | fsHcnt | fsLcnt | intrMask | rxTl | txTl => exact hi.set_regs rfl
  | intrStat | rawIntrStat | clrIntr | status | txflr | rxflr => exact hi

theorem serialStep {s t : State} (hi : FifoInvariant s) (h : s.SerialStep t) : FifoInvariant t := by
  cases h with
  | same h => exact hi.of_sameSerial h
  | read r hr h => exact (hi.readEffect hr).of_sameSerial h
  | write r v hw h => exact (hi.writeEffect hw).of_sameSerial h
  | agent he hregs hparams htx hrx =>
    simp only [State.wireEnabled, Bool.and_eq_true] at he
    obtain ⟨⟨-, he⟩, -⟩ := he
    obtain ⟨htxfit, hrxfit⟩ := hi.fifosFit
    refine .of_enabled (by rwa [State.enabled, hregs]) ⟨?_, ?_⟩
    · exact hparams ▸ htx.length_le.trans htxfit
    · obtain hrx | ⟨hroom, b, hrx⟩ := hrx
      · rwa [hrx, hparams]
      · rw [hrx, hparams, List.length_append]
        exact hroom

end FifoInvariant

/-- Settles O45: of what a step can do (`step_serialStep`), a push or a received byte finds room, only an enabled
controller's FIFOs and wire agent work, and disabling leaves both FIFOs empty and the wire agent idle. -/
theorem fifoInvariantsKept : Obligations.FifoInvariantsKept := by
  intro s t hd hf h
  have hi : FifoInvariant s.advance := FifoInvariant.of_sameSerial ⟨hd, hf⟩ (.advance s)
  obtain ⟨hd', hf'⟩ := hi.serialStep (step_serialStep h)
  exact ⟨hd', hf'⟩

end Sys2Proof.Machine
end

section
/-! PROOFS. Reads of the register window (40_register_window.md R100 to R129): a read that does not fault, the parts of
the value it returns, and each register's read. -/

namespace Sys2Proof.Machine

/-! ### A read that does not fault -/

theorem exec_ofRead_of_noFault {r : Reg} {s : State} (hs : s.faults = []) (hr : r.readFault s = none) :
    exec (.ofRead r) s = .next
      { (r.readEffect s).record (.regRead r.offset (r.readWith s.draw s)) with
        drawCount := s.drawCount + 1, rdata := r.readWith s.draw s } := by
  rw [exec_ofRead]
  exact runRead_next.2 ⟨hs, .inr ⟨hr, rfl⟩⟩

/-- Only DATA_CMD has a condition of its own on a read (R106). -/
theorem Reg.readFault_of_mapped {r : Reg} {s : State} (hm : s.mapped = true) (hr : r ≠ .dataCmd ∨ s.enabled = true) :
    r.readFault s = none := by
  unfold Reg.readFault
  rw [hm]
  cases r with
  | dataCmd => simp [hr.resolve_left (not_not_intro rfl)]
  | _ => rfl

/-- Only the reads of DATA_CMD and CLR_INTR have a side effect (R67). -/
theorem Reg.readEffect_eq_self {r : Reg} (hd : r ≠ .dataCmd) (hc : r ≠ .clrIntr) (s : State) : r.readEffect s = s := by
  cases r with
  | dataCmd => exact absurd rfl hd
  | clrIntr => exact absurd rfl hc
  | _ => rfl

/-- A read of any other register returns its value and is recorded, and nothing else changes. -/
theorem exec_ofRead_pure {r : Reg} {s : State} (hd : r ≠ .dataCmd) (hc : r ≠ .clrIntr) (hs : s.faults = [])
    (hm : s.mapped = true) :
    exec (.ofRead r) s = .next { s with
      rdata := r.readWith s.draw s, drawCount := s.drawCount + 1,
      hist := s.hist ++ [.regRead r.offset (r.readWith s.draw s)] } := by
  rw [exec_ofRead_of_noFault hs (Reg.readFault_of_mapped hm (.inl hd)), Reg.readEffect_eq_self hd hc]
  rfl

/-! ### The value a read returns (R64) -/

theorem readWith_and_defined {r : Reg} {s : State} {x m : Word} (h : r.readBits s = (x, m)) (d : Word) :
    r.readWith d s &&& m = x &&& m := by
  refine BitVec.eq_of_getLsbD_eq fun k hk => ?_
  cases hbit : m.getLsbD k with
  | true => rw [BitVec.getLsbD_and, BitVec.getLsbD_and, readWith_defined (by rwa [h]), h]
  | false => rw [BitVec.getLsbD_and, BitVec.getLsbD_and, hbit, Bool.and_false, Bool.and_false]

theorem readWith_and_undefined {r : Reg} {s : State} {x m : Word} (h : r.readBits s = (x, m)) (d : Word) :
    r.readWith d s &&& ~~~m = d &&& ~~~m := by
  refine BitVec.eq_of_getLsbD_eq fun k hk => ?_
  cases hbit : m.getLsbD k with
  | true => simp [BitVec.getLsbD_and, hbit]
  | false => rw [BitVec.getLsbD_and, BitVec.getLsbD_and, readWith_undefined hk (by rwa [h])]

/-- A field all of whose bits are defined reads as the register's field. -/
theorem readWith_field_defined {r : Reg} {s : State} {x m : Word} {i n : Nat} (h : r.readBits s = (x, m))
    (hm : m.extractLsb' i n = BitVec.allOnes n) (d : Word) :
    (r.readWith d s).extractLsb' i n = x.extractLsb' i n := by
  refine BitVec.eq_of_getLsbD_eq fun k hk => ?_
  have hbit : m.getLsbD (i + k) = true := by
    simpa [hk] using congrArg (BitVec.getLsbD · k) hm
  rw [BitVec.getLsbD_extractLsb', BitVec.getLsbD_extractLsb', readWith_defined (by rwa [h]), h]

/-- A field none of whose bits is defined reads as the draw's field. -/
theorem readWith_field_undefined {r : Reg} {s : State} {x m : Word} {i n : Nat} (h : r.readBits s = (x, m))
    (hm : m.extractLsb' i n = 0#n) (hin : i + n ≤ 32) (d : Word) :
    (r.readWith d s).extractLsb' i n = d.extractLsb' i n := by
  refine BitVec.eq_of_getLsbD_eq fun k hk => ?_
  have hbit : m.getLsbD (i + k) = false := by
    simpa [hk] using congrArg (BitVec.getLsbD · k) hm
  rw [BitVec.getLsbD_extractLsb', BitVec.getLsbD_extractLsb', readWith_undefined (by omega) (by rwa [h])]

/-- The low bits of a field placed in a word are the field. -/
theorem extractLsb'_zero_setWidth {n w : Nat} (h : n ≤ w) (x : BitVec n) : (x.setWidth w).extractLsb' 0 n = x := by
  rw [← BitVec.setWidth_eq_extractLsb' h, BitVec.setWidth_setWidth_of_le _ h, BitVec.setWidth_eq]

/-- A register with no defined bit reads as the draw. -/
theorem readWith_of_noneDefined {r : Reg} {s : State} (h : (r.readBits s).2 = 0#32) (d : Word) : r.readWith d s = d :=
  BitVec.eq_of_getLsbD_eq fun _ hk => readWith_undefined hk (by simp [h])

theorem readBits_intrStat (s : State) : Reg.readBits .intrStat s = (s.intrStatBits, 0x1F#32) := rfl

theorem readBits_rawIntrStat (s : State) : Reg.readBits .rawIntrStat s = (s.rawBits, 0x1F#32) := rfl

theorem readBits_status (s : State) : Reg.readBits .status s = (s.statusBits, 0xB#32) := rfl

theorem readBits_txflr (s : State) :
    Reg.readBits .txflr s = (BitVec.setWidth 32 (BitVec.ofNat 16 s.txFifo.length), 0xFFFF#32) := rfl

theorem readBits_rxflr (s : State) :
    Reg.readBits .rxflr s = (BitVec.setWidth 32 (BitVec.ofNat 16 s.rxFifo.length), 0xFFFF#32) := rfl

/-! ### The storage registers (R100 to R125) -/

/-- A register whose defined bits are a stored field is read as the statement says. -/
theorem readsStored_ofRead (r : Reg) {defined : Word} {stored : State → Word}
    (hbits : ∀ s, r.readBits s = (stored s, defined)) (hd : r ≠ .dataCmd := by exact nofun)
    (hc : r ≠ .clrIntr := by exact nofun) :
    ReadsStored (.ofRead r) (regWord false r.offset) r.offset defined stored := by
  refine ⟨decode_regWord_read r, fun s hs hm => ⟨_, exec_ofRead_pure hd hc hs hm, ?_, ?_⟩⟩
  · exact readWith_and_defined (hbits s) _
  · exact readWith_and_undefined (hbits s) _

/-- Settles O1: each of the eleven registers has the stored field and the defined bits the statement gives. -/
theorem storageRegisterReads : Obligations.StorageRegisterReads :=
  ⟨readsStored_ofRead .con fun _ => rfl, readsStored_ofRead .tar fun _ => rfl, readsStored_ofRead .sar fun _ => rfl,
    readsStored_ofRead .ssHcnt fun _ => rfl, readsStored_ofRead .ssLcnt fun _ => rfl,
    readsStored_ofRead .fsHcnt fun _ => rfl, readsStored_ofRead .fsLcnt fun _ => rfl,
    readsStored_ofRead .intrMask fun _ => rfl, readsStored_ofRead .rxTl fun _ => rfl,
    readsStored_ofRead .txTl fun _ => rfl, readsStored_ofRead .enable fun _ => rfl⟩

/-! ### STATUS and the FIFO levels (R127 to R129) -/

/-- ACTIVITY is 1 exactly when a token is queued or in flight or the bus is busy (R51). -/
theorem activity_eq_true (s : State) :
    s.activity = true ↔ s.txFifo ≠ [] ∨ s.wire.inflight ≠ none ∨ s.wire.busBusy = true := by
  rw [← Bool.not_eq_false, activity_eq_false]
  simp only [not_and_or, Bool.not_eq_false, ne_eq]

theorem tfnf_eq_true (s : State) : s.tfnf = true ↔ s.txFifo.length < s.params.txDepth :=
  decide_eq_true_iff

theorem rfne_eq_true (s : State) : s.rfne = true ↔ s.rxFifo.length > 0 := by
  simp [State.rfne, List.length_pos_iff]

/-- Settles O2: STATUS bits 0, 1 and 3 are those the engine's polls test (`status_readsActive` and its like); a level
is a field of 16 defined bits. -/
theorem statusAndLevelReads : Obligations.StatusAndLevelReads := by
  refine ⟨decode_regWord_read .status, decode_regWord_read .txflr, decode_regWord_read .rxflr, fun s hs hm =>
    ⟨⟨_, exec_ofRead_pure (r := .status) nofun nofun hs hm, ?_, ?_, ?_, ?_, ?_⟩,
      ⟨_, exec_ofRead_pure (r := .txflr) nofun nofun hs hm, ?_, ?_⟩,
      ⟨_, exec_ofRead_pure (r := .rxflr) nofun nofun hs hm, ?_, ?_⟩⟩⟩
  · rw [gt_iff_lt, List.length_pos_iff, ← activity_eq_true, ← status_readsActive s.draw]
    rfl
  · rw [← tfnf_eq_true, ← status_readsTxRoom s.draw]
    rfl
  · rw [← rfne_eq_true, ← status_readsRxByte s.draw]
    rfl
  · exact readWith_undefined (by decide) (by decide : BitVec.getLsbD 0xB#32 2 = false)
  · exact readWith_field_undefined (readBits_status s) (by decide) (by decide) _
  · rw [readWith_field_defined (readBits_txflr s) (by decide), extractLsb'_zero_setWidth (by decide)]
  · exact readWith_field_undefined (readBits_txflr s) (by decide) (by decide) _
  · rw [readWith_field_defined (readBits_rxflr s) (by decide), extractLsb'_zero_setWidth (by decide)]
  · exact readWith_field_undefined (readBits_rxflr s) (by decide) (by decide) _

/-! ### The interrupt registers (R116, R119, R124) -/

theorem rawBitsOf_read (s : State) : RawBitsOf s (Reg.readWith .rawIntrStat s.draw s) := by
  have hbit : ∀ k, k < 5 → (Reg.readWith .rawIntrStat s.draw s).getLsbD k = s.rawBits.getLsbD k :=
    fun k hk => readWith_defined ((by decide : ∀ k < 5, BitVec.getLsbD 0x1F#32 k = true) k hk)
  refine ⟨?_, ?_, ?_, ?_, ?_⟩ <;> rw [hbit _ (by decide)] <;>
    simp [State.rawBits, bitAt_getElem, State.rxFull, State.txEmpty]

/-- Settles O3: the raw bits are `rawBitsOf_read`, and the masked register's are the same bits under the mask. -/
theorem interruptStatusReads : Obligations.InterruptStatusReads := by
  refine ⟨decode_regWord_read .rawIntrStat, decode_regWord_read .intrStat, fun s hs hm =>
    ⟨_, _, exec_ofRead_pure (r := .rawIntrStat) nofun nofun hs hm, exec_ofRead_pure (r := .intrStat) nofun nofun hs hm,
      rawBitsOf_read s, ?_, readWith_field_undefined (readBits_rawIntrStat s) (by decide) (by decide) _,
      readWith_field_undefined (readBits_intrStat s) (by decide) (by decide) _⟩⟩
  have hfive : BitVec.extractLsb' 0 5 0x1F#32 = BitVec.allOnes 5 := by decide
  rw [readWith_field_defined (readBits_intrStat s) hfive, readWith_field_defined (readBits_rawIntrStat s) hfive,
    State.intrStatBits, BitVec.extractLsb'_and, BitVec.extractLsb'_and, hfive, BitVec.and_allOnes]

/-- Settles O5: CLR_INTR has no defined bit, and its side effect clears the sticky bits. -/
theorem clearInterruptRead : Obligations.ClearInterruptRead := by
  refine ⟨decode_regWord_read .clrIntr, fun s hs hm => ?_⟩
  refine (exec_ofRead_of_noFault (r := .clrIntr) hs (Reg.readFault_of_mapped hm (.inl nofun))).trans ?_
  rw [readWith_of_noneDefined rfl]
  rfl

/-! ### DATA_CMD (R106) -/

theorem readEffect_dataCmd_cons {s : State} {b : Byte} {rest : List Byte} (h : s.rxFifo = b :: rest) :
    Reg.readEffect .dataCmd s = { s with rxFifo := rest } := by
  simp only [Reg.readEffect, h]

theorem readEffect_dataCmd_nil {s : State} (h : s.rxFifo = []) :
    Reg.readEffect .dataCmd s = { s with sticky := { s.sticky with rxUnder := true } } := by
  simp only [Reg.readEffect, h]

theorem readBits_dataCmd_cons {s : State} {b : Byte} {rest : List Byte} (h : s.rxFifo = b :: rest) :
    Reg.readBits .dataCmd s = (BitVec.setWidth 32 b, 0xFF#32) := by
  simp only [Reg.readBits, h]

theorem readBits_dataCmd_nil {s : State} (h : s.rxFifo = []) : Reg.readBits .dataCmd s = (0#32, 0#32) := by
  simp only [Reg.readBits, h]

theorem readFault_dataCmd_of_disabled {s : State} (hm : s.mapped = true) (he : s.enabled = false) :
    Reg.readFault .dataCmd s = some .dataCmdWhileDisabled := by
  simp [Reg.readFault, hm, he]

/-- Settles O4: the FIFO's two cases on an enabled controller, and the fault of a disabled one. -/
theorem dataCmdRead : Obligations.DataCmdRead := by
  refine ⟨decode_regWord_read .dataCmd, fun s hs hm => ⟨fun b rest he hrx => ?_, fun he hrx => ?_, fun he => ?_⟩⟩
  · have hbits := readBits_dataCmd_cons hrx
    refine ⟨Reg.readWith .dataCmd s.draw s,
      (exec_ofRead_of_noFault (r := .dataCmd) hs (Reg.readFault_of_mapped hm (.inr he))).trans ?_, ?_, ?_⟩
    · rw [readEffect_dataCmd_cons hrx]
      rfl
    · rw [readWith_field_defined hbits (by decide), extractLsb'_zero_setWidth (by decide)]
    · exact readWith_field_undefined hbits (by decide) (by decide) _
  · refine (exec_ofRead_of_noFault (r := .dataCmd) hs (Reg.readFault_of_mapped hm (.inr he))).trans ?_
    rw [readWith_of_noneDefined (by rw [readBits_dataCmd_nil hrx]), readEffect_dataCmd_nil hrx]
    rfl
  · exact runRead_of_readFault hs (readFault_dataCmd_of_disabled hm he)

end Sys2Proof.Machine
end

section
/-! PROOFS. Writes of the register window (40_register_window.md R101 to R126) with no reserved bit set: the register's
own fault or the write's effect, and each register's write. -/

namespace Sys2Proof.Machine

/-! ### A write with no reserved bit set: check 6 of R68 is left -/

theorem Reg.firstWriteFault_of_checked {r : Reg} {v : Word} {s : State} (hm : s.mapped = true)
    (hr : r.readOnly = false) (hv : v &&& ~~~r.writeMask = 0#32) : r.firstWriteFault v s = r.writeFault v s := by
  have hres : r.setsReserved v = false := by
    rw [← Bool.not_eq_true, Reg.setsReserved_iff]
    exact not_not_intro hv
  simp [Reg.firstWriteFault, hm, hr, hres]

/-- A value with no reserved bit set is stored as it is. -/
theorem Reg.and_writeMask_of_checked {r : Reg} {v : Word} (hv : v &&& ~~~r.writeMask = 0#32) :
    v &&& r.writeMask = v := by
  refine BitVec.eq_of_getLsbD_eq fun k hk => ?_
  have hbit : v.getLsbD k = true → r.writeMask.getLsbD k = true := by
    simpa [hk] using congrArg (BitVec.getLsbD · k) hv
  rw [BitVec.getLsbD_and, Bool.and_eq_left_iff_imp.2 hbit]

section

variable {r : Reg} {v : Word} {s : State}

/-- The register's own condition faults (R245). -/
theorem runWrite_of_writeFault {x : FaultReason} (hs : s.faults = []) (hm : s.mapped = true)
    (hr : r.readOnly = false) (hv : v &&& ~~~r.writeMask = 0#32) (hx : r.writeFault v s = some x) :
    runWrite r v s = .next { s with faults := [x] } :=
  runWrite_of_firstWriteFault hs ((Reg.firstWriteFault_of_checked hm hr hv).trans hx)

theorem runWrite_of_noFault (hs : s.faults = []) (hm : s.mapped = true)
    (hr : r.readOnly = false) (hv : v &&& ~~~r.writeMask = 0#32) (hx : r.writeFault v s = none) :
    runWrite r v s = .next ((r.writeEffect v s).record (.regWrite r.offset v)) :=
  runWrite_next.2 ⟨hs, .inr ⟨(Reg.firstWriteFault_of_checked hm hr hv).trans hx, rfl⟩⟩

theorem Reg.writeEffect_storage (hr : r.readOnly = false) (hd : r ≠ .dataCmd) (he : r ≠ .enable) :
    r.writeEffect v s = { s with regs := s.regs.set r (v &&& r.writeMask) } := by
  cases r with
  | dataCmd => exact absurd rfl hd
  | enable => exact absurd rfl he
  | con | tar | sar | ssHcnt | ssLcnt | fsHcnt | fsLcnt | intrMask | rxTl | txTl => rfl
  | intrStat | rawIntrStat | clrIntr | status | txflr | rxflr => cases hr

/-- A write of a storage register other than ENABLE stores the value and is recorded, and nothing else changes. -/
theorem runWrite_storage (hs : s.faults = []) (hm : s.mapped = true) (hv : v &&& ~~~r.writeMask = 0#32)
    (hx : r.writeFault v s = none) (hr : r.readOnly = false := by rfl) (hd : r ≠ .dataCmd := by exact nofun)
    (he : r ≠ .enable := by exact nofun) :
    runWrite r v s = .next { s with regs := s.regs.set r v, hist := s.hist ++ [.regWrite r.offset v] } := by
  rw [runWrite_of_noFault hs hm hr hv hx, Reg.writeEffect_storage hr hd he, Reg.and_writeMask_of_checked hv]
  rfl

end

/-! ### Storage registers written only while disabled, or only on an idle bus (R101, R103, R105) -/

theorem conFault_of_enabled {v : Word} {s : State} (he : s.enabled = true) :
    Reg.writeFault .con v s = some .conWhileEnabled :=
  if_pos he

theorem conFault_of_disabled {v : Word} {s : State} (he : s.enabled = false) :
    Reg.writeFault .con v s =
      if v.extractLsb' 1 2 = 0#2 ∨ v.extractLsb' 1 2 = 3#2 then some .badSpeed else none := by
  simp [Reg.writeFault, he]

/-- Settles O6: CON's two conditions, tested in that order. -/
theorem controlWrite : Obligations.ControlWrite := by
  refine ⟨decode_regWord_write .con, fun v s hs hm hv => ⟨fun he => ?_, fun he hspeed => ?_, fun he hspeed => ?_⟩⟩
  · exact runWrite_of_writeFault hs hm rfl hv (conFault_of_enabled he)
  · exact runWrite_of_writeFault hs hm rfl hv ((conFault_of_disabled he).trans (if_pos hspeed))
  · refine runWrite_storage hs hm hv ((conFault_of_disabled he).trans (if_neg ?_))
    obtain h | h := hspeed <;> rw [h] <;> decide

/-- Settles O7: TAR's one condition is ACTIVITY. -/
theorem targetWrite : Obligations.TargetWrite := by
  refine ⟨decode_regWord_write .tar, fun v s hs hm hv => ⟨fun hactive => ?_, fun htx hin hbusy => ?_⟩⟩
  · exact runWrite_of_writeFault hs hm rfl hv (if_pos ((activity_eq_true s).2 hactive))
  · have hidle := (activity_eq_false s).2 ⟨htx, hin, hbusy⟩
    exact runWrite_storage hs hm hv (if_neg (Bool.eq_false_iff.1 hidle))

/-- Settles O8: SAR's one condition is ENABLE[0]. -/
theorem slaveAddressWrite : Obligations.SlaveAddressWrite := by
  refine ⟨decode_regWord_write .sar, fun v s hs hm hv => ⟨fun he => ?_, fun he => ?_⟩⟩
  · exact runWrite_of_writeFault hs hm rfl hv (if_pos he)
  · exact runWrite_storage hs hm hv (if_neg (Bool.eq_false_iff.1 he))

/-! ### The clock counts, the mask and the thresholds (R109 to R123) -/

/-- A count register's write is as the statement says: its one condition is ENABLE[0] or ACTIVITY. -/
theorem countWrite_of_reg (r : Reg) {i : Word → Instr} (hi : ∀ v, Instr.ofWrite r v = .ok (i v))
    (hmask : ~~~r.writeMask = 0xFFFF0000#32)
    (hfault : ∀ v s, r.writeFault v s = if s.enabled || s.activity then some .timingWhileEnabled else none)
    (hd : r ≠ .dataCmd := by exact nofun) (he : r ≠ .enable := by exact nofun) :
    CountWrite i (regWord true r.offset) r.offset fun g v => g.set r v := by
  refine ⟨fun x => (decode_regWord_write r x).trans (hi x), fun v s hs hm hv => ?_⟩
  obtain ⟨hr, hexec⟩ := exec_of_ofWrite (hi v)
  rw [← hmask] at hv
  rw [hexec]
  refine ⟨fun hbusy => ?_, fun hen htx hin hbusy => ?_⟩
  · refine runWrite_of_writeFault hs hm hr hv ((hfault v s).trans (if_pos ?_))
    rwa [Bool.or_eq_true, activity_eq_true]
  · refine runWrite_storage hs hm hv ((hfault v s).trans (if_neg ?_)) hr hd he
    rw [Bool.not_eq_true, Bool.or_eq_false_iff, activity_eq_false]
    exact ⟨hen, htx, hin, hbusy⟩

/-- Settles O10: the four registers share the condition and the reserved bits. -/
theorem clockCountWrites : Obligations.ClockCountWrites :=
  ⟨countWrite_of_reg .ssHcnt (fun _ => rfl) rfl fun _ _ => rfl,
    countWrite_of_reg .ssLcnt (fun _ => rfl) rfl fun _ _ => rfl,
    countWrite_of_reg .fsHcnt (fun _ => rfl) rfl fun _ _ => rfl,
    countWrite_of_reg .fsLcnt (fun _ => rfl) rfl fun _ _ => rfl⟩

/-- Settles O11: the three registers have no condition of their own. -/
theorem maskAndThresholdWrites : Obligations.MaskAndThresholdWrites :=
  ⟨decode_regWord_write .intrMask, decode_regWord_write .rxTl, decode_regWord_write .txTl, fun _ _ hs hm =>
    ⟨fun hv => runWrite_storage (r := .intrMask) hs hm hv rfl, fun hv => runWrite_storage (r := .rxTl) hs hm hv rfl,
      fun hv => runWrite_storage (r := .txTl) hs hm hv rfl⟩⟩

/-! ### DATA_CMD (R107) -/

theorem pushToken_of_room {n : Nat} {s : State} (h : s.txFifo.length < n) (tok : Token) :
    pushToken n s tok = { s with txFifo := s.txFifo ++ [tok] } :=
  if_pos h

theorem pushToken_of_full {n : Nat} {s : State} (h : n ≤ s.txFifo.length) (tok : Token) :
    pushToken n s tok = { s with sticky := { s.sticky with txOver := true } } :=
  if_neg (Nat.not_lt.2 h)

/-- Settles O9: an enabled controller pushes the token or has no room for it; a disabled one faults. -/
theorem dataCmdWrite : Obligations.DataCmdWrite := by
  refine ⟨decode_regWord_write .dataCmd, fun v s hs hm hv => ?_⟩
  have hpush (he : s.enabled = true) : exec (.wrDataCmd v) s =
      .next ((pushToken s.params.txDepth s (tokenOf v)).record (.regWrite 0x10 v)) :=
    runWrite_of_noFault (r := .dataCmd) hs hm rfl hv (if_pos he)
  refine ⟨fun he hroom => ?_, fun he hfull => ?_, fun he => ?_⟩
  · rw [hpush he, pushToken_of_room hroom]
    rfl
  · rw [hpush he, pushToken_of_full hfull]
    rfl
  · exact runWrite_of_writeFault hs hm rfl hv (if_neg (Bool.eq_false_iff.1 he))

/-! ### ENABLE (R126) -/

theorem enableFault_one (s : State) : Reg.writeFault .enable 1#32 s = none := by
  simp [Reg.writeFault]

theorem enableFault_zero (s : State) :
    Reg.writeFault .enable 0#32 s = if s.enabled && s.activity then some .disableWhileActive else none := by
  simp [Reg.writeFault]

/-- Settles O12: a write of 1 has no condition; a write of 0 faults exactly on an enabled controller with an active
bus, and otherwise flushes. -/
theorem enableWrite : Obligations.EnableWrite := by
  refine ⟨decode_regWord_write .enable, fun s hs hm => ⟨?_, fun he hactive => ?_, fun hquiet => ?_⟩⟩
  · exact runWrite_of_noFault (r := .enable) hs hm rfl rfl (enableFault_one s)
  · refine runWrite_of_writeFault (r := .enable) hs hm rfl rfl ((enableFault_zero s).trans (if_pos ?_))
    exact Bool.and_eq_true_iff.2 ⟨he, (activity_eq_true s).2 hactive⟩
  · refine (runWrite_of_noFault (r := .enable) hs hm rfl rfl ((enableFault_zero s).trans (if_neg ?_))).trans ?_
    · rw [← activity_eq_false] at hquiet
      rw [Bool.not_eq_true, Bool.and_eq_false_iff]
      exact hquiet
    · simp [Reg.writeEffect, State.record, Regs.set, Reg.offset]

end Sys2Proof.Machine
end

section
/-! PROOFS. The count function (41_timing_config.md R141, R142): the default's sum and low half, and that no count
function gives a bus faster than requested. -/

namespace Sys2Proof.Machine

theorem le_mul_ceilDiv (a : Nat) {b : Nat} (hb : 0 < b) : a ≤ b * ceilDiv a b :=
  le_smul_ceilDiv hb

theorem countsValid_iff {c : Nat × Nat} :
    countsValid c = true ↔ 1 ≤ c.1 ∧ c.1 ≤ 0xFFFF ∧ 1 ≤ c.2 ∧ c.2 ≤ 0xFFFF := by
  simp [countsValid, and_assoc]

/-! ### The default (R141) -/

/-- The low half, 53% rounded up, is no more than the whole, so the high half is what is left of it. -/
theorem countFn_sum (fIn f : Nat) : (countFn fIn f).1 + (countFn fIn f).2 = ceilDiv fIn f := by
  refine Nat.sub_add_cancel ?_
  unfold ceilDiv
  omega

theorem countFn_low (fIn f : Nat) : 53 * ceilDiv fIn f ≤ 100 * (countFn fIn f).2 :=
  le_mul_ceilDiv _ (by decide)

theorem fIn_le_mul_countFn (fIn : Nat) {f : Nat} (hf : 0 < f) :
    fIn ≤ f * ((countFn fIn f).1 + (countFn fIn f).2) :=
  countFn_sum fIn f ▸ le_mul_ceilDiv fIn hf

/-! ### Every COUNT_FN (R142) -/

theorem Params.countFn_of_byDefault {p : Params} (h : p.counts = .byDefault) (f : Nat) :
    p.countFn f = Machine.countFn p.fIn f := by
  simp only [Params.countFn, h]

theorem Params.countFn_of_other {p : Params} {k : Nat} (h : p.counts = .other k) (f : Nat) :
    p.countFn f =
      if countsValid (Config.otherCounts k f) ∧ f * ((Config.otherCounts k f).1 + (Config.otherCounts k f).2) < p.fIn
      then Machine.countFn p.fIn f else Config.otherCounts k f := by
  simp [Params.countFn, h]

/-- R142: the default meets it, and another function's valid pair that would not gives way to the default's. -/
theorem Params.fIn_le_mul_countFn {p : Params} {f : Nat} (hf : 0 < f) (hv : countsValid (p.countFn f) = true) :
    p.fIn ≤ f * ((p.countFn f).1 + (p.countFn f).2) := by
  cases hc : p.counts with
  | byDefault =>
    rw [Params.countFn_of_byDefault hc]
    exact Machine.fIn_le_mul_countFn p.fIn hf
  | other k =>
    rw [Params.countFn_of_other hc] at hv ⊢
    split at hv
    next hfast =>
      rw [if_pos hfast]
      exact Machine.fIn_le_mul_countFn p.fIn hf
    next hslow =>
      rw [if_neg hslow]
      exact Nat.le_of_not_lt fun h => hslow ⟨hv, h⟩

/-- Settles O27: R142 is `Params.fIn_le_mul_countFn`, and the default's two properties are `countFn_sum` and
`countFn_low`. -/
theorem countFunctionProperties : Obligations.CountFunctionProperties := by
  intro p f _ hf _
  refine ⟨fun hv => ?_, fun hc => ?_⟩
  · obtain ⟨hH, hH', hL, hL'⟩ := countsValid_iff.1 hv
    exact ⟨hH, hL, hH', hL', Params.fIn_le_mul_countFn hf hv⟩
  · rw [Params.countFn_of_byDefault hc]
    exact ⟨countFn_sum p.fIn f, countFn_low p.fIn f⟩

end Sys2Proof.Machine
end

section
/-! PROOFS. The steps of INIT and SET_SPEED (41_timing_config.md R145, R147 to R155): the validations, and the eight CFG
steps, each one register write. -/

namespace Sys2Proof.Machine

theorem whileServing_of_serving {q : Request} {s : State} (hs : s.faults = []) (hq : s.req = some q) (o : Outcome) :
    whileServing q s o = o := by
  rw [whileServing, whenRunning_of_unfaulted hs, if_pos hq]

/-! ### The validations (R145, R155) -/

theorem exec_init_of_validate {f : Nat} {s : State} (hs : s.faults = []) (hp : s.phase = .validate)
    (hq : s.req = some (.init f)) : exec (.init f) s = .next (validateInit s.params f s) :=
  (whileServing_of_serving hs hq _).trans (by rw [hp])

theorem exec_setSpeed_of_validate {f : Nat} {s : State} (hs : s.faults = []) (hp : s.phase = .validate)
    (hq : s.req = some (.setSpeed f)) : exec (.setSpeed f) s = .next (validateSetSpeed s.params f s) :=
  (whileServing_of_serving hs hq _).trans (by rw [hp])

/-- Settles O23: in VALIDATE the step is `validateInit`, whose three branches are the three clauses. -/
theorem initValidation : Obligations.InitValidation := by
  intro f s hs hp hq
  rw [exec_init_of_validate hs hp hq]
  refine ⟨fun hi => ?_, fun hi hf => ?_, fun hi hf => ?_⟩
  · simp [validateInit, hi, State.abortWith]
  · simp [validateInit, hi, hf, State.abortWith]
  · simp [validateInit, hi, hf]

/-- Settles O24: in VALIDATE the step is `validateSetSpeed`, whose three branches are the three clauses. -/
theorem setSpeedValidation : Obligations.SetSpeedValidation := by
  intro f s hs hp hq
  rw [exec_setSpeed_of_validate hs hp hq]
  refine ⟨fun hi => ?_, fun hi hf => ?_, fun hi hf => ?_⟩
  · simp [validateSetSpeed, hi, State.abortWith]
  · simp [validateSetSpeed, hi, hf, State.abortWith]
  · simp [validateSetSpeed, hi, hf]

/-! ### An engine step that writes a register without a fault -/

theorem engineWrite_of_noFault {r : Reg} {v : Word} {after : State → State} {s : State} (hm : s.mapped = true)
    (hr : r.readOnly = false) (hv : v &&& ~~~r.writeMask = 0#32) (hx : r.writeFault v s = none) :
    engineWrite r v after s = .next (after ((r.writeEffect v s).record (.regWrite r.offset v))) :=
  engineWrite_next.2 (.inr ⟨(Reg.firstWriteFault_of_checked hm hr hv).trans hx, rfl⟩)

theorem engineWrite_storage {r : Reg} {v : Word} {after : State → State} {s : State} (hm : s.mapped = true)
    (hv : v &&& ~~~r.writeMask = 0#32) (hx : r.writeFault v s = none) (hr : r.readOnly = false := by rfl)
    (hd : r ≠ .dataCmd := by exact nofun) (he : r ≠ .enable := by exact nofun) :
    engineWrite r v after s =
      .next (after { s with regs := s.regs.set r v, hist := s.hist ++ [.regWrite r.offset v] }) := by
  rw [engineWrite_of_noFault hm hr hv hx, Reg.writeEffect_storage hr hd he, Reg.and_writeMask_of_checked hv]
  rfl

/-! ### The values the CFG steps write (R143, R148 to R152) -/

theorem countValue_checked (c : BitVec 16) : countValue c &&& ~~~0xFFFF#32 = 0#32 := by
  unfold countValue
  refine BitVec.eq_of_getLsbD_eq fun k hk => ?_
  by_cases h : k < 16
  · have hmask := (by decide : ∀ k < 16, BitVec.getLsbD 0xFFFF0000#32 k = false) k h
    simp [hmask]
  · simp [BitVec.getLsbD_of_ge c k (Nat.le_of_not_lt h)]

theorem conValue_checked (sp : Speed) : conValue sp &&& ~~~0x7F#32 = 0#32 := by
  cases sp <;> rfl

theorem conValue_eq (sp : Speed) : conValue sp = if sp = .standard then 0x63#32 else 0x65#32 := by
  cases sp <;> rfl

/-- The SPEED field of CON's value is the mode's number, so it is neither 0 nor 3 (R143). -/
theorem conFault_conValue {s : State} (he : s.enabled = false) (sp : Speed) :
    Reg.writeFault .con (conValue sp) s = none := by
  rw [conFault_of_disabled he]
  cases sp <;> rfl

/-! ### The CFG steps of a request being served -/

/-- In the CFG phases INIT and SET_SPEED take the same step. -/
theorem exec_of_servesConfig {i : Instr} {s : State} (hi : servesConfig i s) (hs : s.faults = [])
    (hp : s.phase.configuring = true) : exec i s = cfgStep s := by
  obtain ⟨f, ⟨rfl, hq⟩ | ⟨rfl, hq⟩⟩ := hi
  · refine (whileServing_of_serving hs hq _).trans ?_
    split
    next h =>
      rw [h] at hp
      cases hp
    · rfl
  · refine (whileServing_of_serving hs hq _).trans ?_
    split
    next h =>
      rw [h] at hp
      cases hp
    next h =>
      rw [h] at hp
      cases hp
    · rfl

/-- Settles O25: the disable has no fault on an idle bus and its write of 0 flushes; the enable has none at all. -/
theorem reconfigurationBrackets : Obligations.ReconfigurationBrackets := by
  intro i s hi hs hm
  refine ⟨fun hp htx hin hbusy => ?_, fun hp => ?_⟩
  · have hidle := (activity_eq_false s).2 ⟨htx, hin, hbusy⟩
    have hx : Reg.writeFault .enable 0#32 s = none := by simp [enableFault_zero, hidle]
    rw [exec_of_servesConfig hi hs (by rw [hp]; rfl)]
    simp only [cfgStep, hp]
    rw [engineWrite_of_noFault hm rfl rfl hx]
    simp [Reg.writeEffect, State.record, Regs.set, Reg.offset, toPhase]
  · rw [exec_of_servesConfig hi hs (by rw [hp]; rfl)]
    simp only [cfgStep, hp]
    rw [engineWrite_of_noFault hm rfl rfl (enableFault_one s)]
    rfl

/-- A CFG step whose one register write has no fault stores the value, is recorded, and goes to the next phase. -/
theorem exec_cfgWrite {i : Instr} {r : Reg} {v : Word} {next : Phase} {s : State} (hi : servesConfig i s)
    (hs : s.faults = []) (hm : s.mapped = true) (hp : s.phase.configuring = true)
    (hstep : cfgStep s = engineWrite r v (toPhase next) s) (hv : v &&& ~~~r.writeMask = 0#32)
    (hx : r.writeFault v s = none) (hr : r.readOnly = false := by rfl) (hd : r ≠ .dataCmd := by exact nofun)
    (he : r ≠ .enable := by exact nofun) :
    exec i s = .next { s with
      regs := s.regs.set r v, hist := s.hist ++ [.regWrite r.offset v], phase := next } := by
  rw [exec_of_servesConfig hi hs hp, hstep, engineWrite_storage hm hv hx hr hd he]
  rfl

/-- Settles O26: with the controller disabled and idle none of the six writes has a fault, and each stores its value. -/
theorem reconfigurationWrites : Obligations.ReconfigurationWrites := by
  intro i c s hi hs hm hn he htx hin hbusy
  have hquiet : ¬(s.enabled || s.activity) = true := by
    rw [State.enabled, he, (activity_eq_false s).2 ⟨htx, hin, hbusy⟩]
    exact Bool.false_ne_true
  rw [← conValue_eq]
  refine ⟨fun hp => ?_, fun hp => ?_, fun hp => ?_, fun hp => ?_, fun hp => ?_, fun hp => ?_⟩
  · exact exec_cfgWrite (r := .ssHcnt) (v := countValue c.ssH) hi hs hm (by rw [hp]; rfl)
      (by simp only [cfgStep, hp, hn]) (countValue_checked c.ssH) (if_neg hquiet)
  · exact exec_cfgWrite (r := .ssLcnt) (v := countValue c.ssL) hi hs hm (by rw [hp]; rfl)
      (by simp only [cfgStep, hp, hn]) (countValue_checked c.ssL) (if_neg hquiet)
  · exact exec_cfgWrite (r := .fsHcnt) (v := countValue c.fsH) hi hs hm (by rw [hp]; rfl)
      (by simp only [cfgStep, hp, hn]) (countValue_checked c.fsH) (if_neg hquiet)
  · exact exec_cfgWrite (r := .fsLcnt) (v := countValue c.fsL) hi hs hm (by rw [hp]; rfl)
      (by simp only [cfgStep, hp, hn]) (countValue_checked c.fsL) (if_neg hquiet)
  · exact exec_cfgWrite (r := .con) hi hs hm (by rw [hp]; rfl) (by simp only [cfgStep, hp, hn])
      (conValue_checked c.speed) (conFault_conValue he c.speed)
  · exact exec_cfgWrite (r := .intrMask) (v := 0#32) hi hs hm (by rw [hp]; rfl) (by simp only [cfgStep, hp]) rfl rfl

end Sys2Proof.Machine
end

section
/-! PROOFS. The configuration consistency predicate (41_timing_config.md R157): where every register holds the value of
a configuration that an accepted frequency gives (R144, R146), the bus is no faster than that frequency. -/

namespace Sys2Proof.Machine

/-- A valid count fits in its 16-bit field. -/
theorem toNat_ofNat_of_countsValid {c : Nat × Nat} (h : countsValid c = true) :
    (BitVec.ofNat 16 c.1).toNat + (BitVec.ofNat 16 c.2).toNat = c.1 + c.2 := by
  obtain ⟨-, hH, -, hL⟩ := countsValid_iff.1 h
  rw [BitVec.toNat_ofNat, BitVec.toNat_ofNat, Nat.mod_eq_of_lt (Nat.lt_succ_of_le hH),
    Nat.mod_eq_of_lt (Nat.lt_succ_of_le hL)]

theorem freqOk_iff {p : Params} {f : Nat} :
    freqOk p f = true ↔ 0 < f ∧ f ≤ 400000 ∧ countsValid (p.countFn (min f 100000)) = true ∧
      countsValid (p.countFn (min f 400000)) = true := by
  simp [freqOk, and_assoc]

theorem speedField_conValue (sp : Speed) : BitVec.setWidth 32 ((conValue sp).extractLsb' 1 2) = sp.code := by
  cases sp <;> rfl

theorem countField_countValue (c : BitVec 16) : (countValue c).extractLsb' 0 16 = c :=
  extractLsb'_zero_setWidth (by decide) c

/-- The bus period of the mode a configuration selects (R140). -/
def BusConfig.period (c : BusConfig) : Nat :=
  match c.speed with
  | .standard => c.ssH.toNat + c.ssL.toNat
  | .fast => c.fsH.toNat + c.fsL.toNat

theorem period_cfgOf_slow {p : Params} {f : Nat} (hf : f ≤ 100000) (hv : countsValid (p.countFn f) = true) :
    (cfgOf p f).period = (p.countFn f).1 + (p.countFn f).2 := by
  simp only [BusConfig.period, cfgOf, speedOf, if_pos hf, Nat.min_eq_left hf]
  exact toNat_ofNat_of_countsValid hv

theorem period_cfgOf_fast {p : Params} {f : Nat} (hf : ¬f ≤ 100000) (hle : f ≤ 400000)
    (hv : countsValid (p.countFn f) = true) : (cfgOf p f).period = (p.countFn f).1 + (p.countFn f).2 := by
  simp only [BusConfig.period, cfgOf, speedOf, if_neg hf, Nat.min_eq_left hle]
  exact toNat_ofNat_of_countsValid hv

/-- The mode of an accepted frequency uses the pair that COUNT_FN gives for that frequency itself, for only the other
mode's pair may be that of a limit (R146). So R142 holds of the period. -/
theorem fIn_le_mul_period_cfgOf {p : Params} {f : Nat} (hok : freqOk p f = true) :
    p.fIn ≤ f * (cfgOf p f).period := by
  obtain ⟨hpos, hle, hss, hfs⟩ := freqOk_iff.1 hok
  by_cases hslow : f ≤ 100000
  · rw [Nat.min_eq_left hslow] at hss
    rw [period_cfgOf_slow hslow hss]
    exact Params.fIn_le_mul_countFn hpos hss
  · rw [Nat.min_eq_left hle] at hfs
    rw [period_cfgOf_fast hslow hle hfs]
    exact Params.fIn_le_mul_countFn hpos hfs

theorem Derived.fIn_le_mul_period {p : Params} {c : BusConfig} (h : Derived p c) : p.fIn ≤ c.fTarget * c.period := by
  obtain ⟨hok, hc⟩ := h
  have hperiod := fIn_le_mul_period_cfgOf hok
  rwa [← hc] at hperiod

/-- Where every register holds the values of `c`, the bus period is that of `c`. -/
theorem busPeriod_of_programmed {s : State} {c : BusConfig} (h : ProgrammedUpTo .cfgEnable c s.regs) :
    busPeriod s = some c.period := by
  obtain ⟨hssH, hssL, hfsH, hfsL, hcon, -⟩ := h
  unfold busPeriod
  rw [hssH, hssL, hfsH, hfsL, hcon]
  simp only [countField_countValue, BusConfig.period]
  cases c.speed <;> rfl

theorem ConfigInvariant.configConsistent {s : State} (hi : ConfigInvariant s) (hinit : s.initialized = true)
    (hp : s.phase.reprogramming = false) : ConfigConsistent s := by
  obtain ⟨hderived, -, -, hcurrent⟩ := hi
  obtain ⟨c, hc, hprog⟩ := hcurrent hinit hp
  have hperiod := busPeriod_of_programmed hprog
  obtain ⟨hssH, hssL, hfsH, hfsL, hcon, -⟩ := hprog
  refine ⟨c, c.period, hc, ?_, ?_, ?_, ?_, ?_, hperiod, (hderived c hc).fIn_le_mul_period⟩
  · rw [hcon, speedField_conValue]
  · rw [hssH, countField_countValue]
  · rw [hssL, countField_countValue]
  · rw [hfsH, countField_countValue]
  · rw [hfsL, countField_countValue]

end Sys2Proof.Machine
end

section
/-! PROOFS. The configuration under every step of the block's own agents (41_timing_config.md R146 to R157): a CFG step
programs one more register or commits, and every other step leaves the configuration as it is. -/

namespace Sys2Proof.Machine

/-- What every step but a CFG step leaves of the configuration: the current record, the programmed registers; a record
put in for programming comes from an accepted frequency; and the step stays inside its phase, or outside a
reconfiguration. -/
structure State.ConfigFrame (s t : State) : Prop where
  cfg : t.cfg = s.cfg
  initialized : t.initialized = s.initialized
  params : t.params = s.params
  programmed : ∀ p c, ProgrammedUpTo p c s.regs → ProgrammedUpTo p c t.regs
  ncfg : ∀ c, t.ncfg = some c → s.ncfg = some c ∨ Derived s.params c
  phase : (t.phase = s.phase ∧ t.ncfg = s.ncfg) ∨ (s.phase.reprogramming = false ∧ t.phase.reprogramming = false)

namespace State.ConfigFrame

/-- An update of other fields. -/
theorem of_eq {s t : State} (hc : t.cfg = s.cfg := by rfl) (hi : t.initialized = s.initialized := by rfl)
    (hpar : t.params = s.params := by rfl) (hr : t.regs = s.regs := by rfl) (hn : t.ncfg = s.ncfg := by rfl)
    (hp : t.phase = s.phase := by rfl) : s.ConfigFrame t where
  cfg := hc
  initialized := hi
  params := hpar
  programmed _ _ := hr ▸ id
  ncfg _ h := .inl (hn ▸ h)
  phase := .inl ⟨hp, hn⟩

/-- An update of other fields and of the phase, outside a reconfiguration. -/
theorem of_outside {s t : State} (hs : s.phase.reprogramming = false) (ht : t.phase.reprogramming = false)
    (hc : t.cfg = s.cfg := by rfl) (hi : t.initialized = s.initialized := by rfl)
    (hpar : t.params = s.params := by rfl) (hr : t.regs = s.regs := by rfl) (hn : t.ncfg = s.ncfg := by rfl) :
    s.ConfigFrame t where
  cfg := hc
  initialized := hi
  params := hpar
  programmed _ _ := hr ▸ id
  ncfg _ h := .inl (hn ▸ h)
  phase := .inr ⟨hs, ht⟩

theorem trans {s t u : State} (hst : s.ConfigFrame t) (htu : t.ConfigFrame u) : s.ConfigFrame u where
  cfg := htu.cfg.trans hst.cfg
  initialized := htu.initialized.trans hst.initialized
  params := htu.params.trans hst.params
  programmed p c h := htu.programmed p c (hst.programmed p c h)
  ncfg c h := (htu.ncfg c h).elim (hst.ncfg c) fun hd => .inr (hst.params ▸ hd)
  phase := by
    obtain ⟨hp, hn⟩ | ⟨hs, ht⟩ := hst.phase
    · rw [← hp, ← hn]
      exact htu.phase
    · obtain ⟨hp, -⟩ | ⟨-, hu⟩ := htu.phase
      · exact .inr ⟨hs, hp ▸ ht⟩
      · exact .inr ⟨hs, hu⟩

theorem raise (s : State) (x : FaultReason) : s.ConfigFrame (s.raise x) :=
  of_eq (s.raise_cfg x) (s.raise_initialized x) (s.raise_params x) (s.raise_regs x) (s.raise_ncfg x) (s.raise_phase x)

theorem of_hold {s t : State} (h : hold s = .next t) : s.ConfigFrame t := by
  obtain rfl := hold_next.1 h
  exact of_eq

theorem advance (s : State) : s.ConfigFrame s.advance :=
  of_eq s.advance_cfg s.advance_initialized s.advance_params s.advance_regs s.advance_ncfg s.advance_phase

end State.ConfigFrame

theorem ConfigInvariant.of_frame {s t : State} (hi : ConfigInvariant s) (h : s.ConfigFrame t) : ConfigInvariant t := by
  obtain ⟨hcfg, hncfg, hprog, hcurrent⟩ := hi
  refine ⟨fun c hc => ?_, fun c hc => ?_, fun hp => ?_, fun hinit hp => ?_⟩
  · exact h.params ▸ hcfg c (h.cfg ▸ hc)
  · exact h.params ▸ (h.ncfg c hc).elim (hncfg c) id
  · obtain ⟨hphase, hn⟩ | ⟨-, ht⟩ := h.phase
    · obtain ⟨c, hc, hdone⟩ := hprog (hphase ▸ hp)
      exact ⟨c, hn ▸ hc, hphase ▸ h.programmed _ c hdone⟩
    · exact absurd (hp.symm.trans ht) Bool.noConfusion
  · have hs : s.phase.reprogramming = false := h.phase.elim (fun hsame => hsame.1 ▸ hp) And.left
    obtain ⟨c, hc, hdone⟩ := hcurrent (h.initialized ▸ hinit) hs
    exact ⟨c, h.cfg ▸ hc, h.programmed _ c hdone⟩

theorem Phase.outside_of_terminal {p : Phase} (h : p.terminal = true) : p.reprogramming = false := by
  cases p with
  | cfgSsHcnt | cfgSsLcnt | cfgFsHcnt | cfgFsLcnt | cfgCon | cfgMask | cfgEnable => cases h
  | _ => rfl

/-! ### What a register access leaves unchanged -/

/-- A read's side effect is on the RX FIFO and the sticky bits only (R67). -/
theorem Reg.readEffect_eq (r : Reg) (s : State) :
    ∃ rx st, r.readEffect s = { s with rxFifo := rx, sticky := st } := by
  unfold Reg.readEffect
  split
  case h_1 => split <;> exact ⟨_, _, rfl⟩
  all_goals exact ⟨_, _, rfl⟩

/-- A write's effect is on the storage registers, the FIFOs, the sticky bits and the history only (R101 to R126). -/
theorem Reg.writeEffect_eq (r : Reg) (v : Word) (s : State) :
    ∃ tx rx st h, r.writeEffect v s =
      { s with regs := s.regs.set r (v &&& r.writeMask), txFifo := tx, rxFifo := rx, sticky := st, hist := h } := by
  unfold Reg.writeEffect
  split
  case h_1 => unfold pushToken; split <;> exact ⟨_, _, _, _, rfl⟩
  case h_2 => dsimp only; split <;> exact ⟨_, _, _, _, rfl⟩
  all_goals exact ⟨_, _, _, _, rfl⟩

/-! ### The steps outside a reconfiguration: EXECUTE, the validations and the bus-free wait -/

section

variable {s t : State}

theorem engineRead_configFrame {r : Reg} {after : Word → State → State} (hs : s.phase.reprogramming = false)
    (hafter : ∀ (v : Word) (u : State), u.phase.reprogramming = false → u.ConfigFrame (after v u))
    (h : engineRead r after s = .next t) : s.ConfigFrame t := by
  obtain ⟨x, -, rfl⟩ | ⟨-, rfl⟩ := engineRead_next.1 h
  · exact .raise s x
  · obtain ⟨rx, st, heff⟩ := r.readEffect_eq s
    rw [heff]
    exact .trans .of_eq (hafter _ _ hs)

/-- The write of a register that no CFG step programs. -/
theorem engineWrite_configFrame {r : Reg} {v : Word} {after : State → State} (hs : s.phase.reprogramming = false)
    (hr : ∀ p c (g : Regs) x, ProgrammedUpTo p c g → ProgrammedUpTo p c (g.set r x))
    (hafter : ∀ u : State, u.phase.reprogramming = false → u.ConfigFrame (after u))
    (h : engineWrite r v after s = .next t) : s.ConfigFrame t := by
  obtain ⟨x, -, rfl⟩ | ⟨-, rfl⟩ := engineWrite_next.1 h
  · exact .raise s x
  · obtain ⟨tx, rx, st, hist, heff⟩ := r.writeEffect_eq v s
    rw [heff]
    refine .trans ?_ (hafter _ hs)
    exact ⟨rfl, rfl, rfl, fun p c hg => hr p c _ _ hg, fun _ => .inl, .inl ⟨rfl, rfl⟩⟩

theorem poll_configFrame {bound : Nat} {k : Wait} {success : Word → Bool} {next : Phase}
    (hs : s.phase.reprogramming = false) (hnext : next.reprogramming = false)
    (h : poll bound k success next s = .next t) : s.ConfigFrame t := by
  refine engineRead_configFrame hs (fun v u hu => ?_) h
  unfold pollAfter
  split
  · exact .of_outside hu hnext
  · split
    · exact .of_eq
    · exact .of_outside hu rfl

theorem afterPush_configFrame (wlen rlen : Nat) (hs : s.phase.reprogramming = false) :
    s.ConfigFrame (afterPush wlen rlen s) := by
  unfold afterPush
  split
  · exact .of_outside hs rfl
  · split <;> exact .of_outside hs rfl

theorem afterPop_configFrame (rlen : Nat) (v : Word) (hs : s.phase.reprogramming = false) :
    s.ConfigFrame (afterPop rlen v s) := by
  unfold afterPop
  dsimp only
  split <;> exact .of_outside hs rfl

theorem afterAddress_configFrame (wlen : Nat) (hs : s.phase.reprogramming = false) :
    s.ConfigFrame (afterAddress wlen s) := by
  refine .of_outside hs ?_
  unfold afterAddress
  dsimp only
  split <;> rfl

theorem validateExecute_configFrame (maxLen : Option Nat) (addr : Nat) (tenBit : Bool) (wdata : List Byte) (rlen : Nat)
    (hs : s.phase.reprogramming = false) : s.ConfigFrame (validateExecute maxLen addr tenBit wdata rlen s) := by
  unfold validateExecute
  dsimp only
  split
  · exact .of_outside hs rfl
  · split <;> exact .of_outside hs rfl

/-- A validation that accepts a frequency puts in the record of it (R145, R155). -/
theorem validated_configFrame {f n : Nat} {next : Phase} (hok : freqOk s.params f = true)
    (hs : s.phase.reprogramming = false) (hnext : next.reprogramming = false) :
    s.ConfigFrame { s with ncfg := some (cfgOf s.params f), cnt := n, phase := next } where
  cfg := rfl
  initialized := rfl
  params := rfl
  programmed _ _ := id
  ncfg c h := .inr (by obtain rfl := Option.some.inj h; exact ⟨hok, rfl⟩)
  phase := .inr ⟨hs, hnext⟩

theorem validateInit_configFrame (f : Nat) (hs : s.phase.reprogramming = false) :
    s.ConfigFrame (validateInit s.params f s) := by
  unfold validateInit
  split
  · exact .of_outside hs rfl
  · split
    · exact .of_outside hs rfl
    next hok => exact validated_configFrame (by simpa using hok) hs rfl

theorem validateSetSpeed_configFrame (f : Nat) (hs : s.phase.reprogramming = false) :
    s.ConfigFrame (validateSetSpeed s.params f s) := by
  unfold validateSetSpeed
  split
  · exact .of_outside hs rfl
  · split
    · exact .of_outside hs rfl
    next hok => exact validated_configFrame (by simpa using hok) hs rfl

/-- The phase read off is outside a reconfiguration. -/
theorem outside_of_phase {p : Phase} (hp : s.phase = p) (h : p.reprogramming = false := by rfl) :
    s.phase.reprogramming = false :=
  hp ▸ h

/-- EXECUTE's steps read registers, or write TAR and DATA_CMD (R185 to R191). -/
theorem execExecute_configFrame {addr : Nat} {tenBit : Bool} {wdata : List Byte} {rlen : Nat}
    (h : execExecute addr tenBit wdata rlen s = .next t) : s.ConfigFrame t := by
  obtain ⟨-, ⟨-, h⟩ | ⟨-, rfl⟩⟩ := whileServing_next.1 h
  · split at h
    next hp =>
      cases h
      exact validateExecute_configFrame _ addr tenBit wdata rlen (outside_of_phase hp)
    next hp => exact poll_configFrame (outside_of_phase hp) rfl h
    next hp =>
      exact engineWrite_configFrame (outside_of_phase hp) (fun _ _ _ _ => id)
        (fun _ => afterAddress_configFrame wdata.length) h
    next hp => exact poll_configFrame (outside_of_phase hp) rfl h
    next hp =>
      split at h
      · exact engineWrite_configFrame (outside_of_phase hp) (fun _ _ _ _ => id)
          (fun _ => afterPush_configFrame wdata.length rlen) h
      · exact .of_hold h
    next hp => exact poll_configFrame (outside_of_phase hp) rfl h
    next hp =>
      exact engineWrite_configFrame (outside_of_phase hp) (fun _ _ _ _ => id) (fun _ hu => .of_outside hu rfl) h
    next hp => exact poll_configFrame (outside_of_phase hp) rfl h
    next hp => exact engineRead_configFrame (outside_of_phase hp) (fun v _ => afterPop_configFrame rlen v) h
    next => exact .of_hold h
  · exact .of_eq

/-! ### The wire agent, the lock and the requesters -/

theorem token_configFrame {tok : Token} (h : exec tok.instr s = .next t) : s.ConfigFrame t := by
  obtain ⟨cmd, dat⟩ := tok
  cases cmd with
  | false => obtain rfl | ⟨-, rfl⟩ := execWtok_next_cases h <;> exact .of_eq
  | true => obtain rfl | ⟨-, rfl⟩ := execRtok_next_cases h <;> exact .of_eq

/-- A grant and a release change the phase, outside a reconfiguration; a release drops the record put in (R222). -/
theorem runMove_configFrame {m : Move} (h : runMove m s = .next t) : s.ConfigFrame t := by
  cases m with
  | access a =>
    obtain ⟨-, h⟩ := whenRunning_next.1 h
    cases h
    exact .raise s _
  | engine | wComplete => exact .of_hold (whenRunning_next.1 h).2
  | wTake => obtain rfl | ⟨tok, rest, -, -, -, rfl⟩ := wireTake_next_cases h <;> exact .of_eq
  | wEnd => obtain rfl | ⟨-, rfl⟩ := wireEnd_next_cases h <;> exact .of_eq
  | wAbort => obtain rfl | ⟨-, rfl⟩ := wireAbort_next_cases h <;> exact .of_eq
  | grant r =>
    obtain rfl | ⟨q, -, -, hp, -, rfl⟩ := grant_next_cases h
    · exact .of_eq
    · exact .of_outside (outside_of_phase hp) rfl
  | release =>
    obtain rfl | ⟨r, res, hp, -, -, rfl⟩ := release_next_cases h
    · exact .of_eq
    · exact ⟨rfl, rfl, rfl, fun _ _ => id, nofun, .inr ⟨Phase.outside_of_terminal hp, rfl⟩⟩
  | issue r rec => obtain rfl | ⟨q, -, -, rfl⟩ := issueRecord_next_cases h <;> exact .of_eq
  | collect r => obtain rfl | ⟨res, -, rfl⟩ := collect_next_cases h <;> exact .of_eq
  | helper r addr hp =>
    obtain rfl | ⟨-, ⟨q, -, rfl⟩ | ⟨res, -, rfl⟩⟩ := callHelper_next_cases h <;> exact .of_eq

/-! ### The CFG steps (R147 to R154) -/

theorem ConfigInvariant.programming {p : Phase} (hi : ConfigInvariant s) (hp : s.phase = p)
    (h : p.reprogramming = true := by rfl) : ∃ c, s.ncfg = some c ∧ ProgrammedUpTo p c s.regs := by
  obtain ⟨-, -, hprog, -⟩ := hi
  exact hp ▸ hprog (hp ▸ h)

theorem ConfigInvariant.programmed {p : Phase} {c : BusConfig} (hi : ConfigInvariant s) (hp : s.phase = p)
    (hc : s.ncfg = some c) (h : p.reprogramming = true := by rfl) : ProgrammedUpTo p c s.regs := by
  obtain ⟨c', hc', hdone⟩ := hi.programming hp h
  obtain rfl := Option.some.inj (hc.symm.trans hc')
  exact hdone

/-- A write whose value, with the registers programmed before, makes up what the next CFG phase asks for. -/
theorem ConfigInvariant.engineWrite_toPhase {r : Reg} {v : Word} {next : Phase} {c : BusConfig} (hi : ConfigInvariant s)
    (hc : s.ncfg = some c) (h : engineWrite r v (toPhase next) s = .next t)
    (hdone : ProgrammedUpTo next c (s.regs.set r (v &&& r.writeMask))) (hnext : next.reprogramming = true := by rfl) :
    ConfigInvariant t := by
  obtain ⟨x, -, rfl⟩ | ⟨-, rfl⟩ := engineWrite_next.1 h
  · exact hi.of_frame (.raise s x)
  · obtain ⟨tx, rx, st, hist, heff⟩ := r.writeEffect_eq v s
    rw [heff]
    obtain ⟨hcfg, hncfg, -, -⟩ := hi
    exact ⟨hcfg, hncfg, fun _ => ⟨c, hc, hdone⟩, fun _ hp => absurd (hnext.symm.trans hp) Bool.noConfusion⟩

/-- The commit makes the record programmed the current one (R154). -/
theorem ConfigInvariant.engineWrite_commit {v : Word} (hi : ConfigInvariant s) (hp : s.phase = .cfgEnable)
    (h : engineWrite .enable v commitConfig s = .next t) : ConfigInvariant t := by
  obtain ⟨x, -, rfl⟩ | ⟨-, rfl⟩ := engineWrite_next.1 h
  · exact hi.of_frame (.raise s x)
  · obtain ⟨tx, rx, st, hist, heff⟩ := Reg.writeEffect_eq .enable v s
    rw [heff]
    obtain ⟨c, hc, hdone⟩ := hi.programming hp
    obtain ⟨-, hncfg, -, -⟩ := hi
    exact ⟨hncfg, nofun, nofun, fun _ _ => ⟨c, hc, hdone⟩⟩

theorem countValue_and_mask (c : BitVec 16) : countValue c &&& 0xFFFF#32 = countValue c :=
  Reg.and_writeMask_of_checked (r := .ssHcnt) (countValue_checked c)

theorem conValue_and_mask (sp : Speed) : conValue sp &&& 0x7F#32 = conValue sp :=
  Reg.and_writeMask_of_checked (r := .con) (conValue_checked sp)

/-- Each step programs the one register that the next phase asks for and this one does not. -/
theorem ConfigInvariant.cfgStep (hi : ConfigInvariant s) (hn : s.phase = .cfgDisable → s.ncfg ≠ none)
    (h : cfgStep s = .next t) : ConfigInvariant t := by
  unfold Machine.cfgStep at h
  split at h
  next hp =>
    obtain ⟨c, hc⟩ := Option.ne_none_iff_exists'.1 (hn hp)
    exact hi.engineWrite_toPhase hc h trivial
  next c hp hc => exact hi.engineWrite_toPhase hc h (countValue_and_mask c.ssH)
  next c hp hc =>
    have hssH := hi.programmed hp hc
    exact hi.engineWrite_toPhase hc h ⟨hssH, countValue_and_mask c.ssL⟩
  next c hp hc =>
    obtain ⟨hssH, hssL⟩ := hi.programmed hp hc
    exact hi.engineWrite_toPhase hc h ⟨hssH, hssL, countValue_and_mask c.fsH⟩
  next c hp hc =>
    obtain ⟨hssH, hssL, hfsH⟩ := hi.programmed hp hc
    exact hi.engineWrite_toPhase hc h ⟨hssH, hssL, hfsH, countValue_and_mask c.fsL⟩
  next c hp hc =>
    obtain ⟨hssH, hssL, hfsH, hfsL⟩ := hi.programmed hp hc
    exact hi.engineWrite_toPhase hc h ⟨hssH, hssL, hfsH, hfsL, conValue_and_mask c.speed⟩
  next hp =>
    obtain ⟨c, hc, hssH, hssL, hfsH, hfsL, hcon⟩ := hi.programming hp
    exact hi.engineWrite_toPhase hc h ⟨hssH, hssL, hfsH, hfsL, hcon, rfl⟩
  next hp => exact hi.engineWrite_commit hp h
  next => exact hi.of_frame (.of_hold h)

/-! ### The step -/

theorem ConfigInvariant.execRequest {q : Request} (hi : ConfigInvariant s)
    (hn : s.phase = .cfgDisable → s.ncfg ≠ none) (h : exec q.instr s = .next t) : ConfigInvariant t := by
  cases q with
  | init f =>
    obtain ⟨-, ⟨-, h⟩ | ⟨-, rfl⟩⟩ := whileServing_next.1 h
    · split at h
      next hp =>
        cases h
        exact hi.of_frame (validateInit_configFrame f (outside_of_phase hp))
      next => exact hi.cfgStep hn h
    · exact hi
  | setSpeed f =>
    obtain ⟨-, ⟨-, h⟩ | ⟨-, rfl⟩⟩ := whileServing_next.1 h
    · split at h
      next hp =>
        cases h
        exact hi.of_frame (validateSetSpeed_configFrame f (outside_of_phase hp))
      next hp => exact hi.of_frame (poll_configFrame (outside_of_phase hp) rfl h)
      next => exact hi.cfgStep hn h
    · exact hi
  | execute addr tenBit wdata rlen => exact hi.of_frame (execExecute_configFrame h)

/-- All that a step of the block's own agents can be: the instruction of the request served or of a token, or a move's
own rule. -/
theorem step_own_cases (ho : s.nextMove.own = true) (h : step s = .next t) :
    t = s.advance ∨ (∃ q, s.req = some q ∧ exec q.instr s.advance = .next t) ∨
      (∃ tok : Token, s.wire.inflight = some tok ∧ exec tok.instr s.advance = .next t) ∨
      runMove s.nextMove s.advance = .next t := by
  cases hm : s.nextMove with
  | access a => rw [hm] at ho; cases ho
  | engine => exact (step_engine hm h).imp And.right .inl
  | wComplete => exact (step_wComplete hm h).imp And.right fun htok => .inr (.inl htok)
  | wTake | wEnd | wAbort | grant r | release | issue r rec | collect r | helper r addr hp =>
    exact .inr (.inr (.inr (hm ▸ step_other (by simp only [fetch, hm]) h)))

theorem ConfigInvariant.step {s t : State} (hr : RunInvariant s) (hi : ConfigInvariant s) (ho : s.nextMove.own = true)
    (h : step s = .next t) : ConfigInvariant t := by
  have hadv := hi.of_frame (.advance s)
  obtain rfl | ⟨q, -, h⟩ | ⟨tok, -, h⟩ | h := step_own_cases ho h
  · exact hadv
  · refine hadv.execRequest (fun hp => ?_) h
    rw [State.advance_phase] at hp
    obtain ⟨-, hncfg, -, -⟩ := hr.serves
    rw [State.advance_ncfg]
    exact hncfg (hp ▸ rfl)
  · exact hadv.of_frame (token_configFrame h)
  · exact hadv.of_frame (runMove_configFrame h)

end

/-- Settles O50: a CFG step programs the register that the next phase asks for, or commits the record whose values all
registers hold; no other step touches them (`State.ConfigFrame`). R157 follows, with R142 for the bus period. -/
theorem configurationStaysConsistent : Obligations.ConfigurationStaysConsistent :=
  ⟨fun _ _ hr hi ho h => hi.step hr ho h, fun _ hi hinit hp => hi.configConsistent hinit hp⟩

end Sys2Proof.Machine
end

section
/-! PROOFS. What the wire agent's steps do (42_fifo_interface.md R163 to R169): where the rule of a step enables it, its
next state; where it does not, nothing but the schedule changes. -/

namespace Sys2Proof.Machine

/-! ### The guards -/

/-- R163's condition, in a controller that is not faulted: ENABLE[0] and MASTER_MODE. -/
theorem State.wireEnabled_iff {s : State} (hs : s.faults = []) :
    s.wireEnabled = true ↔ s.regs.enable.getLsbD 0 = true ∧ s.regs.con.getLsbD 0 = true := by
  simp only [State.wireEnabled, hs, List.isEmpty_nil, Bool.true_and, Bool.and_eq_true]
  rfl

/-- The two bits that switch the wire agent off, in front of further conditions. -/
theorem State.wireEnabled_eq_false_or_iff {s : State} (hs : s.faults = []) {p : Prop} :
    (s.regs.enable.getLsbD 0 = false ∨ s.regs.con.getLsbD 0 = false ∨ p) ↔ s.wireEnabled = false ∨ p := by
  rw [← or_assoc, ← Bool.not_eq_true s.wireEnabled, s.wireEnabled_iff hs, not_and_or, Bool.not_eq_true,
    Bool.not_eq_true]

theorem sendEnabled_iff {b : Byte} {s : State} :
    sendEnabled b s = true ↔ s.wireEnabled = true ∧ s.wire.inflight = some { cmd := false, dat := b } := by
  rw [sendEnabled, Bool.and_eq_true, decide_eq_true_iff]

theorem recvEnabled_iff {depth : Nat} {d : Byte} {s : State} :
    recvEnabled depth d s = true ↔ s.wireEnabled = true ∧ s.wire.inflight = some { cmd := true, dat := d } ∧
      s.rxFifo.length < depth := by
  simp only [recvEnabled, Bool.and_eq_true, decide_eq_true_iff, and_assoc]

theorem wireEnd_guard_iff {s : State} :
    (s.wireEnabled && s.wire.busBusy && s.wire.inflight.isNone && s.txFifo.isEmpty) = true ↔
      WireMoveEnabled .wEnd s := by
  simp only [WireMoveEnabled, Bool.and_eq_true, Option.isNone_iff_eq_none, List.isEmpty_iff, and_assoc]

theorem wireAbort_guard_iff {s : State} :
    (s.wireEnabled && s.params.mayAbort && (s.wire.inflight.isSome || !s.txFifo.isEmpty)) = true ↔
      WireMoveEnabled .wAbort s := by
  simp [WireMoveEnabled, and_assoc, Option.isSome_iff_ne_none]

/-- A guarded operation in a controller that is not faulted: its update, where the guard is met. -/
theorem guarded_of_pos {c : Prop} [Decidable c] {s u : State} (hs : s.faults = []) (hc : c) :
    whenRunning s (if c then .next u else hold s) = .next u := by
  rw [whenRunning_of_unfaulted hs, if_pos hc]

/-- The same operation holds where the guard is not met (R7). -/
theorem guarded_of_neg {c : Prop} [Decidable c] {s u : State} (hs : s.faults = []) (hc : ¬c) :
    whenRunning s (if c then .next u else hold s) = .next s := by
  rw [whenRunning_of_unfaulted hs, if_neg hc, hold]

/-! ### The token instructions (R165, R166) -/

theorem setWidth_eq_tokenWord (b : Byte) : BitVec.setWidth 32 b = tokenWord false b := by
  refine BitVec.eq_of_getLsbD_eq fun k hk => ?_
  rw [BitVec.getLsbD_setWidth, tokenWord_getLsbD]
  by_cases h8 : k < 8
  · simp [h8, hk]
  · simp [h8, b.getLsbD_of_ge k (Nat.le_of_not_lt h8)]

theorem or_setWidth_eq_tokenWord (d : Byte) : 0x100#32 ||| BitVec.setWidth 32 d = tokenWord true d := by
  have hcmd : 0x100#32 = tokenWord true 0#8 := by decide
  refine BitVec.eq_of_getLsbD_eq fun k _ => ?_
  rw [hcmd, setWidth_eq_tokenWord, BitVec.getLsbD_or]
  simp only [tokenWord_getLsbD]
  by_cases h8 : k < 8 <;> simp [h8]

theorem exec_wtok_of_enabled {b : Byte} {s : State} (hs : s.faults = []) (hg : sendEnabled b s = true) :
    exec (.wtok b) s = .next { s with
      wire := { s.wire with inflight := none }, hist := s.hist ++ [.wTx s.target b] } :=
  guarded_of_pos hs hg

theorem exec_wtok_of_not_enabled {b : Byte} {s : State} (hs : s.faults = []) (hg : ¬sendEnabled b s = true) :
    exec (.wtok b) s = .next s :=
  guarded_of_neg hs hg

theorem exec_rtok_of_enabled {d : Byte} {s : State} (hs : s.faults = [])
    (hg : recvEnabled s.params.rxDepth d s = true) :
    exec (.rtok d) s = .next (receive (s.params.oracle.answer s.hist s.target s.tenBit) s) :=
  guarded_of_pos hs hg

theorem exec_rtok_of_not_enabled {d : Byte} {s : State} (hs : s.faults = [])
    (hg : ¬recvEnabled s.params.rxDepth d s = true) : exec (.rtok d) s = .next s :=
  guarded_of_neg hs hg

/-- Settles O18: the guard `sendEnabled` is the statement's three conditions. -/
theorem writeTokenCompletes : Obligations.WriteTokenCompletes := by
  refine ⟨fun b => ?_, fun b s hs => ⟨fun hen hma hi => ?_, fun hoff => ?_⟩⟩
  · rw [setWidth_eq_tokenWord]
    exact decode_tokenCode ⟨false, b⟩
  · exact exec_wtok_of_enabled hs (sendEnabled_iff.2 ⟨(s.wireEnabled_iff hs).2 ⟨hen, hma⟩, hi⟩)
  · rw [s.wireEnabled_eq_false_or_iff hs] at hoff
    refine exec_wtok_of_not_enabled hs fun hg => ?_
    obtain ⟨he, hi⟩ := sendEnabled_iff.1 hg
    simp [he, hi] at hoff

/-- Settles O19: the guard `recvEnabled` is the statement's four conditions. -/
theorem readTokenCompletes : Obligations.ReadTokenCompletes := by
  refine ⟨fun d => ?_, fun d s hs => ⟨fun hen hma hi hroom => ?_, fun hoff => ?_⟩⟩
  · rw [or_setWidth_eq_tokenWord]
    exact decode_tokenCode ⟨true, d⟩
  · exact exec_rtok_of_enabled hs (recvEnabled_iff.2 ⟨(s.wireEnabled_iff hs).2 ⟨hen, hma⟩, hi, hroom⟩)
  · rw [s.wireEnabled_eq_false_or_iff hs] at hoff
    refine exec_rtok_of_not_enabled hs fun hg => ?_
    obtain ⟨he, hi, hroom⟩ := recvEnabled_iff.1 hg
    simp [he, hi, hroom.not_ge] at hoff

/-! ### Each move, where its rule enables it and where it does not -/

/-- W_ABORT where its rule enables it (R169). -/
theorem step_offer_wAbort {s : State} (hs : s.faults = []) (he : WireMoveEnabled .wAbort s) :
    step (s.offer .wAbort) = .next { s with
      txFifo := [], wire := { s.wire with inflight := none }, hist := s.hist ++ [.wAbort] } := by
  rw [step_offer_other hs rfl]
  exact guarded_of_pos hs (wireAbort_guard_iff.2 he)

theorem wireTake_of_not_wireMoveEnabled {s : State} (hs : s.faults = []) (hn : ¬WireMoveEnabled .wTake s) :
    wireTake s = .next s := by
  unfold wireTake
  split
  next tok rest htx =>
    refine guarded_of_neg hs fun hg => hn ?_
    obtain ⟨he, hi⟩ := Bool.and_eq_true_iff.1 hg
    exact ⟨he, Option.isNone_iff_eq_none.1 hi, htx ▸ List.cons_ne_nil tok rest⟩
  · exact whenRunning_of_unfaulted hs _

theorem exec_token_of_not_wireMoveEnabled {s : State} {tok : Token} (hs : s.faults = [])
    (ht : s.wire.inflight = some tok) (hn : ¬WireMoveEnabled .wComplete s) : exec tok.instr s = .next s := by
  obtain ⟨cmd, d⟩ := tok
  cases cmd with
  | false =>
    refine exec_wtok_of_not_enabled hs fun hg => hn ?_
    exact ⟨(sendEnabled_iff.1 hg).1, _, ht, Bool.noConfusion⟩
  | true =>
    refine exec_rtok_of_not_enabled hs fun hg => hn ?_
    obtain ⟨he, -, hroom⟩ := recvEnabled_iff.1 hg
    exact ⟨he, _, ht, fun _ => hroom⟩

/-- Where its rule does not enable it, a move of the wire agent holds (R7, R163). -/
theorem step_offer_of_not_wireMoveEnabled {m : Move} {s : State} (hs : s.faults = []) (hm : m.wire = true)
    (hn : ¬WireMoveEnabled m s) : step (s.offer m) = .next s := by
  cases m with
  | wTake =>
    rw [step_offer_other hs rfl]
    exact wireTake_of_not_wireMoveEnabled hs hn
  | wComplete =>
    cases ht : s.wire.inflight with
    | none =>
      rw [step_offer_other hs (by rw [fetch_of_wComplete rfl, State.offer_wire, ht, Option.map_none])]
      exact whenRunning_of_unfaulted hs _
    | some tok =>
      rw [step_offer_wComplete hs ht]
      exact exec_token_of_not_wireMoveEnabled hs ht hn
  | wEnd =>
    rw [step_offer_other hs rfl]
    exact guarded_of_neg hs (wireEnd_guard_iff.not.2 hn)
  | wAbort =>
    rw [step_offer_other hs rfl]
    exact guarded_of_neg hs (wireAbort_guard_iff.not.2 hn)
  | access | engine | grant | release | issue | collect | helper => cases hm

/-- Only the two FIFOs, the wire agent's own state and the history of `t` may differ from those of `s` (R171). -/
def State.WireFrame (s t : State) : Prop :=
  t = { s with txFifo := t.txFifo, rxFifo := t.rxFifo, wire := t.wire, hist := t.hist }

/-- Where its rule enables it, a move of the wire agent changes the state, and within its frame. -/
theorem step_offer_of_wireMoveEnabled {m : Move} {s : State} (hs : s.faults = []) (he : WireMoveEnabled m s) :
    ∃ t, step (s.offer m) = .next t ∧ t ≠ s ∧ s.WireFrame t := by
  have ⟨hw, hg⟩ := he
  cases m with
  | wTake =>
    obtain ⟨hi, htx⟩ := hg
    obtain ⟨tok, rest, htx⟩ := List.exists_cons_of_ne_nil htx
    refine ⟨_, step_offer_wTake hs hw hi htx rfl, fun h => ?_, rfl⟩
    simpa [htx] using congrArg State.txFifo h
  | wComplete =>
    obtain ⟨⟨cmd, d⟩, ht, hroom⟩ := hg
    cases cmd with
    | false =>
      refine ⟨_, step_offer_send hs hw ht rfl, fun h => ?_, rfl⟩
      simpa using congrArg State.hist h
    | true =>
      obtain ⟨b, hstep⟩ := step_offer_receive hs hw ht (hroom rfl) rfl
      refine ⟨_, hstep, fun h => ?_, rfl⟩
      simpa using congrArg State.hist h
  | wEnd =>
    obtain ⟨hb, hi, htx⟩ := hg
    refine ⟨_, step_offer_wEnd hs hw hb hi htx, fun h => ?_, rfl⟩
    simpa using congrArg State.hist h
  | wAbort =>
    refine ⟨_, step_offer_wAbort hs he, fun h => ?_, rfl⟩
    simpa using congrArg State.hist h
  | access | engine | grant | release | issue | collect | helper => cases hg

/-- A scheduled move is one offered to the state without it. -/
theorem State.eq_offer_of_sched {s : State} {m : Move} {rest : List Move} (h : s.sched = m :: rest) :
    s = { s with sched := rest }.offer m := by
  rw [State.offer, ← h]

theorem step_of_not_wireMoveEnabled {s : State} {m : Move} {rest : List Move} (hs : s.faults = [])
    (hsched : s.sched = m :: rest) (hm : m.wire = true) (hn : ¬WireMoveEnabled m s) :
    step s = .next { s with sched := rest } := by
  rw [s.eq_offer_of_sched hsched]
  exact step_offer_of_not_wireMoveEnabled hs hm hn

/-- Settles O20: `step_offer_wTake` where the take is enabled, and what it records depends on the bus. -/
theorem wireTakesOldestToken : Obligations.WireTakesOldestToken := by
  intro s rest hs hsched
  refine ⟨fun tok q hen hma hi htx => ?_, fun hoff => ?_⟩
  · have hstep := step_offer_wTake (s := { s with sched := rest }) (target := s.target) hs
      ((s.wireEnabled_iff hs).2 ⟨hen, hma⟩) hi htx rfl
    rw [← s.eq_offer_of_sched hsched] at hstep
    refine ⟨fun hb => ?_, fun hb => ?_⟩
    · simpa only [hb, Bool.false_eq_true, if_false] using hstep
    · simpa only [hb, if_true, List.append_nil] using hstep
  · rw [s.wireEnabled_eq_false_or_iff hs] at hoff
    refine step_of_not_wireMoveEnabled hs hsched rfl fun he => ?_
    obtain ⟨hw, hi, htx⟩ := he
    simp [hw, hi, htx] at hoff

/-- Settles O21: the conditions of the two clauses of each move are `WireMoveEnabled` and its negation. -/
theorem wireEndsAndAborts : Obligations.WireEndsAndAborts := by
  intro s rest hs
  refine ⟨fun hsched => ⟨fun hen hma hb hi htx => ?_, fun hoff => ?_⟩,
    fun hsched => ⟨fun hp hen hma hq => ?_, fun hoff => ?_⟩⟩
  · have hstep := step_offer_wEnd (s := { s with sched := rest }) hs ((s.wireEnabled_iff hs).2 ⟨hen, hma⟩) hb hi htx
    rw [← s.eq_offer_of_sched hsched] at hstep
    simpa only [hi] using hstep
  · rw [s.wireEnabled_eq_false_or_iff hs] at hoff
    refine step_of_not_wireMoveEnabled hs hsched rfl fun he => ?_
    obtain ⟨hw, hb, hi, htx⟩ := he
    simp [hw, hb, hi, htx] at hoff
  · rw [s.eq_offer_of_sched hsched]
    exact step_offer_wAbort hs ⟨(s.wireEnabled_iff hs).2 ⟨hen, hma⟩, hp, hq⟩
  · rw [s.wireEnabled_eq_false_or_iff hs] at hoff
    refine step_of_not_wireMoveEnabled hs hsched rfl fun he => ?_
    obtain ⟨hw, hp, hq⟩ := he
    simp only [hw, hp, Bool.true_eq_false, false_or] at hoff
    obtain ⟨hi, htx⟩ := hoff
    exact hq.elim (· hi) (· htx)

/-- Settles O22: a move of the wire agent that is enabled changes the state within its frame, and one that is not
holds. -/
theorem wireAgentFrame : Obligations.WireAgentFrame := by
  refine ⟨fun m s hs hm => ⟨fun he => ?_, fun ⟨t, ht, hne⟩ => ?_⟩, fun s t m rest hsched hm h => ?_⟩
  · obtain ⟨t, ht, hne, -⟩ := step_offer_of_wireMoveEnabled hs he
    exact ⟨t, ht, hne⟩
  · by_contra hn
    exact hne (Host.Outcome.next.inj (ht.symm.trans (step_offer_of_not_wireMoveEnabled hs hm hn)))
  · obtain ⟨hs, -⟩ := step_next_cases h
    by_cases he : WireMoveEnabled m s
    · obtain ⟨u, hu, -, hframe⟩ := step_offer_of_wireMoveEnabled (s := { s with sched := rest }) hs he
      rw [← s.eq_offer_of_sched hsched] at hu
      obtain rfl := Host.Outcome.next.inj (h.symm.trans hu)
      obtain ⟨hen, hma⟩ := (s.wireEnabled_iff hs).1 he.1
      exact ⟨hframe, by simp only [hen, hma, Bool.true_eq_false, or_self, false_imp_iff]⟩
    · obtain rfl := Host.Outcome.next.inj (h.symm.trans (step_of_not_wireMoveEnabled hs hsched hm he))
      exact ⟨rfl, fun _ => rfl⟩

end Sys2Proof.Machine
end

section
/-! PROOFS. The steps of EXECUTE (43_transfer_engine.md R180 to R191), phase by phase: the validation, the poll loop,
and the one register access of each other phase. -/

namespace Sys2Proof.Machine

/-! ### The validation (R183, R88) -/

/-- The fields are valid exactly when none of the four faults of R88 is there. -/
theorem executeValid_iff {maxLen : Option Nat} {a n : Nat} {ten : Bool} {w : List Byte} :
    executeValid maxLen a ten w n = true ↔ ¬(w.length + n = 0 ∨ (ten = false ∧ a > 0x7F) ∨ (ten = true ∧ a > 0x3FF) ∨
      ∃ m, maxLen = some m ∧ (w.length > m ∨ n > m)) := by
  have haddr : a ≤ (if ten then 0x3FF else 0x7F) ↔ ¬(ten = false ∧ a > 0x7F) ∧ ¬(ten = true ∧ a > 0x3FF) := by
    cases ten <;> simp
  have hmax : withinMax maxLen w.length = true ∧ withinMax maxLen n = true ↔
      ¬∃ m, maxLen = some m ∧ (w.length > m ∨ n > m) := by
    cases maxLen <;> simp [withinMax]
  simp only [executeValid, Bool.and_eq_true, decide_eq_true_eq, haddr, and_assoc, hmax, not_or,
    Nat.one_le_iff_ne_zero, ge_iff_le, ne_eq]

/-- Settles O28: in VALIDATE the step is `validateExecute`, whose three branches are the three clauses. -/
theorem executeValidation : Obligations.ExecuteValidation := by
  intro a ten w n s hs hp hq cleared bad
  have hexec : exec (.execute a ten w n) s = .next (validateExecute s.params.maxLen a ten w n s) :=
    (whileServing_of_serving hs hq _).trans (by rw [hp])
  rw [hexec]
  refine ⟨fun hi => ?_, fun hi hbad => ?_, fun hi hok => ?_⟩
  · simp [validateExecute, hi, State.abortWith, cleared]
  · have hv : executeValid s.params.maxLen a ten w n = false := by
      rw [← Bool.not_eq_true, executeValid_iff]
      exact not_not_intro hbad
    simp [validateExecute, hi, hv, State.abortWith, cleared]
  · simp [validateExecute, hi, executeValid_iff.2 hok, cleared]

/-! ### The poll loop (R181) -/

section

variable {bound : Nat} {k : Wait} {success : Word → Bool} {next : Phase} {v : Word} {s : State}

theorem pollAfter_of_success (h : success v = true) :
    pollAfter bound k success next v s = { s with cnt := 0, phase := next } :=
  if_pos h

theorem pollAfter_of_failure (h : ¬success v = true) (hlt : s.cnt < bound) :
    pollAfter bound k success next v s = { s with cnt := s.cnt + 1 } :=
  (if_neg h).trans (if_pos hlt)

theorem pollAfter_of_bound (h : ¬success v = true) (hge : ¬s.cnt < bound) :
    pollAfter bound k success next v s = s.timeOut k :=
  (if_neg h).trans (if_neg hge)

end

/-- An instruction that polls in a mapped state makes the poll step of its condition. -/
theorem pollStep_of_poll {i : Instr} {s : State} {bound : Nat} {k : Wait} {success : Word → Bool} {holds : Prop}
    {next : Phase} (hm : s.mapped = true) (hexec : exec i s = poll bound k success next s)
    (hsuccess : success (Reg.readWith .status s.draw s) = true ↔ holds) : PollStep i s bound k holds next := by
  have hstep : exec i s = .next (pollAfter bound k success next (Reg.readWith .status s.draw s) (statusRead s)) :=
    hexec.trans (poll_next.2 (.inr ⟨hm, rfl⟩))
  refine ⟨Reg.readWith .status s.draw s, ?_, ?_, ?_, fun h => ?_, fun h hlt => ?_, fun h hge => ?_⟩
  · rw [gt_iff_lt, List.length_pos_iff, ← activity_eq_true, ← status_readsActive s.draw]
    rfl
  · rw [← tfnf_eq_true, ← status_readsTxRoom s.draw]
    rfl
  · rw [← rfne_eq_true, ← status_readsRxByte s.draw]
    rfl
  · exact hstep.trans (congrArg _ (pollAfter_of_success (hsuccess.2 h)))
  · exact hstep.trans (congrArg _ (pollAfter_of_failure (mt hsuccess.1 h) hlt))
  · exact hstep.trans (congrArg _ (pollAfter_of_bound (mt hsuccess.1 h) (Nat.not_lt.2 hge)))

/-- Settles O29: every wait is a poll (`pollStep_of_poll`), and the STATUS bit it tests is its condition. -/
theorem pollLoops : Obligations.PollLoops := by
  intro a ten w n f s hs hm idle room
  have hidle : (!readsActive (Reg.readWith .status s.draw s)) = true ↔ idle := by
    rw [status_readsActive, Bool.not_eq_true', activity_eq_false]
  have hroom : readsTxRoom (Reg.readWith .status s.draw s) = true ↔ room := by
    rw [status_readsTxRoom, tfnf_eq_true]
  have hbyte : readsRxByte (Reg.readWith .status s.draw s) = true ↔ s.rxFifo ≠ [] := by
    rw [status_readsRxByte, rfne_eq_true, gt_iff_lt, List.length_pos_iff]
  refine ⟨fun hq hp => ?_, fun hq => ⟨fun hp => ?_, fun hp => ?_, fun hp => ?_, fun hp => ?_⟩⟩
  · exact pollStep_of_poll hm ((whileServing_of_serving hs hq _).trans (by rw [hp]; rfl)) hidle
  · exact pollStep_of_poll hm ((whileServing_of_serving hs hq _).trans (by rw [hp]; rfl)) hidle
  · exact pollStep_of_poll hm ((whileServing_of_serving hs hq _).trans (by rw [hp])) hroom
  · exact pollStep_of_poll hm ((whileServing_of_serving hs hq _).trans (by rw [hp])) hroom
  · exact pollStep_of_poll hm ((whileServing_of_serving hs hq _).trans (by rw [hp])) hbyte

/-! ### The address (R84, R185) -/

/-- The bits of a TAR value (R84). -/
theorem tarValue_getLsbD (a : Nat) (ten : Bool) (k : Nat) :
    (tarValue a ten).getLsbD k = if k < 10 then (BitVec.ofNat 10 a).getLsbD k else decide (k = 12) && ten := by
  show BitVec.getLsbD (w := 19 + (1 + (2 + 10))) (0#19 ++ (BitVec.ofBool ten ++ (0#2 ++ BitVec.ofNat 10 a))) k = _
  rw [BitVec.getLsbD_append, BitVec.getLsbD_append, BitVec.getLsbD_append]
  by_cases h : k < 10
  · simp [h, show k < 1 + (2 + 10) by omega, show k < 2 + 10 by omega]
  · by_cases h' : k = 12
    · subst h'; simp
    · simp [h, h', BitVec.getLsbD_ofBool]; omega

theorem tarValue_checked (a : Nat) (ten : Bool) : tarValue a ten &&& ~~~Reg.writeMask .tar = 0#32 := by
  refine BitVec.eq_of_getLsbD_eq fun k hk => ?_
  have hmask := (by decide : ∀ k < 32, k < 10 ∨ k = 12 → BitVec.getLsbD (~~~Reg.writeMask .tar) k = false) k hk
  rw [BitVec.getLsbD_and, tarValue_getLsbD]
  by_cases h : k < 10
  · rw [hmask (.inl h), Bool.and_false, BitVec.getLsbD_zero]
  · by_cases h' : k = 12
    · rw [hmask (.inr h'), Bool.and_false, BitVec.getLsbD_zero]
    · simp [h, h']

/-- An address of at most 10 bits and TEN_BIT, at bit 12, do not overlap. -/
theorem tarValue_eq {a : Nat} (ha : a ≤ 0x3FF) (ten : Bool) :
    tarValue a ten = BitVec.ofNat 32 (a + if ten then 0x1000 else 0) := by
  have hlow : a % 2 ^ 10 = a := Nat.mod_eq_of_lt (Nat.lt_succ_of_le ha)
  have hor : 4096 ||| a = 4096 + a := (Nat.two_pow_add_eq_or_of_lt (i := 12) (by omega) 1).symm
  refine BitVec.eq_of_toNat_eq ?_
  rw [tarValue, BitVec.toNat_append, BitVec.toNat_append, BitVec.toNat_append, BitVec.toNat_ofNat a 10, hlow]
  cases ten
  · simp; omega
  · simp [hor]; omega

/-- Settles O30: on an idle bus the TAR write has no fault, and `tarValue` is the sum the statement gives. -/
theorem addressIsSetOnce : Obligations.AddressIsSetOnce := by
  intro a ten w n s hs hm hp hq ha htx hin hbusy v
  have hidle := (activity_eq_false s).2 ⟨htx, hin, hbusy⟩
  refine (whileServing_of_serving hs hq _).trans ?_
  simp only [hp, v, ← tarValue_eq ha]
  rw [engineWrite_storage hm (tarValue_checked a ten) (if_neg (Bool.eq_false_iff.1 hidle))]
  simp [afterAddress, Regs.set, Reg.offset, List.length_pos_iff]

/-! ### The DATA_CMD accesses (R187, R189, R191) -/

theorem tokenOf_tokenWord (c : Bool) (b : Byte) : tokenOf (tokenWord c b) = { cmd := c, dat := b } := by
  obtain ⟨hdat, -, hcmd⟩ := tokenWord_fields c b
  rw [tokenOf, hdat, hcmd]

/-- A token's value sets no reserved bit of DATA_CMD (R81, R83). -/
theorem tokenWord_checked (c : Bool) (b : Byte) : tokenWord c b &&& ~~~Reg.writeMask .dataCmd = 0#32 := by
  refine BitVec.eq_of_getLsbD_eq fun k hk => ?_
  have hmask := (by decide : ∀ k < 9, BitVec.getLsbD (~~~Reg.writeMask .dataCmd) k = false) k
  rw [BitVec.getLsbD_and, tokenWord_getLsbD]
  by_cases h : k < 9
  · rw [hmask h, Bool.and_false, BitVec.getLsbD_zero]
  · simp [show ¬k < 8 by omega, show k ≠ 8 by omega]

/-- A DATA_CMD write of a token's value, on an enabled controller with room, pushes the token and is recorded. -/
theorem engineWrite_token {c : Bool} {b : Byte} {after : State → State} {s : State} (hm : s.mapped = true)
    (he : s.enabled = true) (hroom : s.txFifo.length < s.params.txDepth) :
    engineWrite .dataCmd (tokenWord c b) after s = .next (after { s with
      txFifo := s.txFifo ++ [{ cmd := c, dat := b }], hist := s.hist ++ [.regWrite 0x10 (tokenWord c b)] }) := by
  rw [engineWrite_of_noFault hm rfl (tokenWord_checked c b) (if_pos he), Reg.writeEffect, tokenOf_tokenWord,
    pushToken_of_room hroom]
  rfl

/-- Settles O31: the push of the byte's token, and then the three branches of `afterPush`. -/
theorem writeBytePush : Obligations.WriteBytePush := by
  intro a ten w n b s hs hm hp hq hb he hroom pushed
  have hexec : exec (.execute a ten w n) s = .next (afterPush w.length n pushed) := by
    refine (whileServing_of_serving hs hq _).trans ?_
    simp only [hp, hb, writeTokenValue, setWidth_eq_tokenWord]
    rw [engineWrite_token hm he hroom, ← setWidth_eq_tokenWord]
  rw [hexec]
  refine ⟨fun hlt => ?_, fun hlast hn => ?_, fun hlast hn => ?_⟩
  · simp [afterPush, pushed, hlt]
  · simp [afterPush, pushed, hlast, hn]
  · simp [afterPush, pushed, hlast, hn, State.finishOk]

/-- Settles O32: the push of the read token, whose value is 0x100. -/
theorem readTokenPush : Obligations.ReadTokenPush := by
  intro a ten w n s hs hm hp hq he hroom
  refine (whileServing_of_serving hs hq _).trans ?_
  simp only [hp]
  exact engineWrite_token (c := true) (b := 0#8) hm he hroom

/-- Settles O33: the read's DAT field is the oldest byte of the RX FIFO, and then the two branches of `afterPop`. -/
theorem readBytePop : Obligations.ReadBytePop := by
  intro a ten w n b rest s hs hm hp hq he hrx
  have hbyte : (Reg.readWith .dataCmd s.draw s).extractLsb' 0 8 = b := by
    rw [readWith_field_defined (readBits_dataCmd_cons hrx) (by decide), extractLsb'_zero_setWidth (by decide)]
  refine ⟨Reg.readWith .dataCmd s.draw s, hbyte, ?_⟩
  intro popped
  have hexec : exec (.execute a ten w n) s = .next (afterPop n (Reg.readWith .dataCmd s.draw s) { s with
      rxFifo := rest, rdata := Reg.readWith .dataCmd s.draw s, drawCount := s.drawCount + 1,
      hist := s.hist ++ [.regRead 0x10 (Reg.readWith .dataCmd s.draw s)] }) := by
    refine (whileServing_of_serving hs hq _).trans ?_
    simp only [hp]
    refine engineRead_next.2 (.inr ⟨Reg.readFault_of_mapped hm (.inr he), ?_⟩)
    rw [readEffect_dataCmd_cons hrx]
    rfl
  rw [hexec]
  refine ⟨fun hlt => ?_, fun hge => ?_⟩
  · simp [afterPop, popped, receivedByte, hbyte, hlt]
  · simp [afterPop, popped, receivedByte, hbyte, hge.not_gt, State.finishOk]

/-! ### IDLE and the terminal phases -/

theorem exec_request_of_resting {q : Request} {s : State} (hs : s.faults = []) (hq : s.req = some q)
    (hp : s.phase = .idle ∨ s.phase = .done ∨ s.phase = .timeout ∨ s.phase = .abort) :
    exec q.instr s = .next s := by
  cases q with
  | init f | setSpeed f | execute addr tenBit wdata rlen =>
    refine (whileServing_of_serving hs hq _).trans ?_
    obtain hp | hp | hp | hp := hp <;> simp only [hp, cfgStep, hold]

/-- Settles O34: with no request the move holds, and a request's instruction holds in these phases. -/
theorem engineRestsWhenIdleOrDone : Obligations.EngineRestsWhenIdleOrDone := by
  intro s rest hs hsched hp
  have hm := State.nextMove_of_sched hsched
  rw [← State.advance_of_sched hsched]
  cases hq : s.req with
  | none =>
    rw [step_of_fetch_none hs (by rw [fetch_of_engine hm, hq]; rfl), hm]
    exact whenRunning_of_unfaulted (s.advance_faults.trans hs) _
  | some q =>
    rw [step_of_decode_ok hs (by rw [fetch_of_engine hm, hq]; rfl) (decode_record q)]
    exact exec_request_of_resting (s.advance_faults.trans hs) (s.advance_req.trans hq) (by rwa [s.advance_phase])

end Sys2Proof.Machine
end

section
/-! PROOFS. All that a step of EXECUTE can do (43_transfer_engine.md R180 to R191): one lemma, for proofs over every
step to cite, and what no such step changes (R203). -/

namespace Sys2Proof.Machine

/-- The phase to which EXECUTE goes from a phase that polls, where the tested condition holds (R184, R186, R188,
R190). -/
def Phase.afterPoll : Phase → Option Phase
  | .busWait => some .addressSet
  | .wrPoll => some .wrPush
  | .rdPollTx => some .rdPush
  | .rdPollRx => some .rdPop
  | .idle | .validate | .addressSet | .wrPush | .rdPush | .rdPop | .cfgDisable | .cfgSsHcnt | .cfgSsLcnt | .cfgFsHcnt
  | .cfgFsLcnt | .cfgCon | .cfgMask | .cfgEnable | .done | .timeout | .abort => none

/-- All that a step of `EXECUTE(a, ten, w, n)` can do: hold; fault; or, as the phase says, validate, poll, or make one
register access and go on from it. -/
inductive ExecuteStep (a : Nat) (ten : Bool) (w : List Byte) (n : Nat) (s : State) : State → Prop
  | held : ExecuteStep a ten w n s s
  | faulted (x : FaultReason) : ExecuteStep a ten w n s (s.raise x)
  | validated (hp : s.phase = .validate) : ExecuteStep a ten w n s (validateExecute s.params.maxLen a ten w n s)
  | polled {next : Phase} (bound : Nat) (k : Wait) (success : Word → Bool) (hp : s.phase.afterPoll = some next) :
      ExecuteStep a ten w n s (pollAfter bound k success next (Reg.readWith .status s.draw s) (statusRead s))
  | addressed (hp : s.phase = .addressSet) :
      ExecuteStep a ten w n s (afterAddress w.length
        ((Reg.writeEffect .tar (tarValue a ten) s).record (.regWrite 0x04 (tarValue a ten))))
  | bytePushed {b : Byte} (hp : s.phase = .wrPush) (hb : w[s.idx]? = some b) :
      ExecuteStep a ten w n s (afterPush w.length n
        ((Reg.writeEffect .dataCmd (writeTokenValue b) s).record (.regWrite 0x10 (writeTokenValue b))))
  | tokenPushed (hp : s.phase = .rdPush) :
      ExecuteStep a ten w n s (toPhase .rdPollRx
        ((Reg.writeEffect .dataCmd readTokenValue s).record (.regWrite 0x10 readTokenValue)))
  | bytePopped (v : Word) (hp : s.phase = .rdPop) :
      ExecuteStep a ten w n s (afterPop n v
        { (Reg.readEffect .dataCmd s).record (.regRead 0x10 v) with drawCount := s.drawCount + 1, rdata := v })

section

variable {a n : Nat} {ten : Bool} {w : List Byte} {s t : State}

namespace ExecuteStep

theorem of_poll {bound : Nat} {k : Wait} {success : Word → Bool} {p next : Phase} (hp : s.phase = p)
    (h : poll bound k success next s = .next t) (hnext : p.afterPoll = some next := by rfl) :
    ExecuteStep a ten w n s t := by
  obtain ⟨-, rfl⟩ | ⟨-, rfl⟩ := poll_next.1 h
  · exact .faulted .unmapped
  · exact .polled bound k success (hp ▸ hnext)

theorem of_engineWrite {r : Reg} {v : Word} {after : State → State} (h : engineWrite r v after s = .next t)
    (hstep : ExecuteStep a ten w n s (after ((r.writeEffect v s).record (.regWrite r.offset v)))) :
    ExecuteStep a ten w n s t := by
  obtain ⟨x, -, rfl⟩ | ⟨-, rfl⟩ := engineWrite_next.1 h
  · exact .faulted x
  · exact hstep

end ExecuteStep

theorem execExecute_next_cases (h : execExecute a ten w n s = .next t) : ExecuteStep a ten w n s t := by
  obtain ⟨-, ⟨-, h⟩ | ⟨-, rfl⟩⟩ := whileServing_next.1 h
  · split at h
    next hp =>
      cases h
      exact .validated hp
    next hp => exact .of_poll hp h
    next hp => exact .of_engineWrite h (.addressed hp)
    next hp => exact .of_poll hp h
    next hp =>
      split at h
      next b hb => exact .of_engineWrite h (.bytePushed hp hb)
      · exact hold_next.1 h ▸ .held
    next hp => exact .of_poll hp h
    next hp => exact .of_engineWrite h (.tokenPushed hp)
    next hp => exact .of_poll hp h
    next hp =>
      obtain ⟨x, -, rfl⟩ | ⟨-, rfl⟩ := engineRead_next.1 h
      · exact .faulted x
      · exact .bytePopped _ hp
    · exact hold_next.1 h ▸ .held
  · exact .held

/-! ### What each change of the engine's registers leaves unchanged -/

theorem validateExecute_eq (maxLen : Option Nat) (a : Nat) (ten : Bool) (w : List Byte) (n : Nat) (s : State) :
    ∃ res p, validateExecute maxLen a ten w n s =
      { s with rbuf := [], idx := 0, cnt := 0, result := res, phase := p } := by
  unfold validateExecute
  dsimp only
  split
  · exact ⟨_, _, rfl⟩
  · split <;> exact ⟨_, _, rfl⟩

theorem pollAfter_eq (bound : Nat) (k : Wait) (success : Word → Bool) (next : Phase) (v : Word) (s : State) :
    ∃ c res p, pollAfter bound k success next v s = { s with cnt := c, result := res, phase := p } := by
  unfold pollAfter
  split
  · exact ⟨_, _, _, rfl⟩
  · split <;> exact ⟨_, _, _, rfl⟩

theorem afterPush_eq (wlen rlen : Nat) (s : State) :
    ∃ i res p, afterPush wlen rlen s = { s with idx := i, result := res, phase := p } := by
  unfold afterPush
  split
  · exact ⟨_, _, _, rfl⟩
  · split <;> exact ⟨_, _, _, rfl⟩

theorem afterPop_eq (rlen : Nat) (v : Word) (s : State) :
    ∃ res p, afterPop rlen v s =
      { s with rbuf := s.rbuf ++ [receivedByte v], idx := s.idx + 1, result := res, phase := p } := by
  unfold afterPop
  dsimp only
  split <;> exact ⟨_, _, rfl⟩

/-- A DATA_CMD write is to the TX FIFO or to the sticky bits (R107). -/
theorem writeEffect_dataCmd_eq (v : Word) (s : State) :
    ∃ tx st, Reg.writeEffect .dataCmd v s = { s with txFifo := tx, sticky := st } := by
  unfold Reg.writeEffect pushToken
  dsimp only
  split <;> exact ⟨_, _, rfl⟩

/-! ### The frame (R203) -/

/-- What no step of EXECUTE changes: every register but TAR, the configuration, the request and the lock, the
requesters, the wire agent, the mapping, the schedule and the parameters. -/
structure State.ExecuteFrame (s t : State) : Prop where
  regs : t.regs = { s.regs with tar := t.regs.tar } := by rfl
  cfg : t.cfg = s.cfg := by rfl
  ncfg : t.ncfg = s.ncfg := by rfl
  initialized : t.initialized = s.initialized := by rfl
  req : t.req = s.req := by rfl
  owner : t.owner = s.owner := by rfl
  lockOwner : t.lockOwner = s.lockOwner := by rfl
  rq : t.rq = s.rq := by rfl
  waitQ : t.waitQ = s.waitQ := by rfl
  wire : t.wire = s.wire := by rfl
  mapped : t.mapped = s.mapped := by rfl
  delivered : t.delivered = s.delivered := by rfl
  calls : t.calls = s.calls := by rfl
  sched : t.sched = s.sched := by rfl
  moveCount : t.moveCount = s.moveCount := by rfl
  params : t.params = s.params := by rfl

theorem State.ExecuteFrame.raise (s : State) (x : FaultReason) : s.ExecuteFrame (s.raise x) := by
  unfold State.raise
  split <;> exact {}

theorem ExecuteStep.frame (h : ExecuteStep a ten w n s t) : s.ExecuteFrame t := by
  cases h with
  | held => exact {}
  | faulted x => exact .raise s x
  | validated =>
    obtain ⟨res, p, heq⟩ := validateExecute_eq s.params.maxLen a ten w n s
    rw [heq]
    exact {}
  | polled bound k success =>
    obtain ⟨c, res, p, heq⟩ := pollAfter_eq bound k success _ (Reg.readWith .status s.draw s) (statusRead s)
    rw [heq]
    exact {}
  | addressed => exact {}
  | bytePushed =>
    obtain ⟨tx, st, heff⟩ := writeEffect_dataCmd_eq _ s
    obtain ⟨i, res, p, heq⟩ := afterPush_eq w.length n _
    rw [heff, heq]
    exact {}
  | tokenPushed =>
    obtain ⟨tx, st, heff⟩ := writeEffect_dataCmd_eq readTokenValue s
    rw [heff]
    exact {}
  | bytePopped v =>
    obtain ⟨rx, st, heff⟩ := Reg.readEffect_eq .dataCmd s
    obtain ⟨res, p, heq⟩ := afterPop_eq n v _
    rw [heff, heq]
    exact {}

end

/-- Settles O35: every step of EXECUTE keeps the frame (`ExecuteStep.frame`), whose fields are the statement's. -/
theorem executeFrame : Obligations.ExecuteFrame := by
  intro a ten w n s t h
  obtain ⟨regs, cfg, ncfg, initialized, req, owner, lockOwner, rq, waitQ, wire, mapped, delivered, calls, sched,
    moveCount, params⟩ := (execExecute_next_cases h).frame
  exact ⟨regs, cfg, ncfg, initialized, req, owner, lockOwner, rq, waitQ, wire, mapped, delivered, calls, sched,
    moveCount, params⟩

end Sys2Proof.Machine
end

section
/-! PROOFS. The register trace of a transfer (43_transfer_engine.md R194, R197, R198, R200, R201, R203) under every step
of the block's own agents: what one more event makes of the traffic since the grant, and what each step records. -/

namespace Sys2Proof.Machine

/-! ### The traffic and one more event -/

/-- Neither a grant nor a register access: the trace of a transfer does not see it. -/
def Event.untraced : Event → Bool
  | .grant _ _ | .regRead _ _ | .regWrite _ _ => false
  | .release _ _ | .wStart _ | .wTx _ _ | .wRx _ _ | .wStop | .wAbort | .flush => true

theorem sinceGrant_append {e : Event} (he : e.isGrant = false) (h : List Event) :
    sinceGrant (h ++ [e]) = sinceGrant h ++ [e] := by
  simp [sinceGrant, he]

theorem sinceGrant_append_grant (h : List Event) (r : Requester) (q : Request) :
    sinceGrant (h ++ [.grant r q]) = [] := by
  simp [sinceGrant, Event.isGrant]

theorem Event.isGrant_of_untraced {e : Event} (he : e.untraced = true) : e.isGrant = false := by
  cases e with
  | grant r q => cases he
  | _ => rfl

theorem NoAccess.append {h : List Event} (hn : NoAccess (sinceGrant h)) {e : Event} (he : e.untraced = true) :
    NoAccess (sinceGrant (h ++ [e])) := by
  rw [sinceGrant_append (Event.isGrant_of_untraced he)]
  intro e' he'
  obtain hold | hnew := List.mem_append.1 he'
  · exact hn e' hold
  · obtain rfl := List.mem_singleton.1 hnew
    constructor <;> (rintro off v rfl; cases he)

theorem NoAccess.writesAt {es : List Event} (hn : NoAccess es) (off : Nat) : writesAt off es = [] := by
  refine List.filterMap_eq_nil_iff.2 fun e he => ?_
  cases e with
  | regWrite o v => exact absurd rfl ((hn _ he).2 o v)
  | _ => rfl

theorem NoAccess.readsAt {es : List Event} (hn : NoAccess es) (off : Nat) : readsAt off es = [] := by
  refine List.filterMap_eq_nil_iff.2 fun e he => ?_
  cases e with
  | regRead o v => exact absurd rfl ((hn _ he).1 o v)
  | _ => rfl

section

variable {h : List Event} {tar data : List Word} {popped : List Byte}

/-- No access is no traffic. -/
theorem Traffic.of_noAccess (hn : NoAccess (sinceGrant h)) : Traffic h [] [] [] := by
  refine ⟨fun e he => ?_, hn.writesAt _, hn.writesAt _, by rw [hn.readsAt, List.map_nil]⟩
  cases e with
  | regRead off v => exact absurd rfl ((hn _ he).1 off v)
  | regWrite off v => exact absurd rfl ((hn _ he).2 off v)
  | _ => rfl

/-- An access that an EXECUTE may make joins the part of the traffic that it belongs to. -/
theorem Traffic.append (ht : Traffic h tar data popped) {e : Event} (hg : e.isGrant = false)
    (ha : e.transferAccess = true) : Traffic (h ++ [e]) (tar ++ writesAt 0x04 [e]) (data ++ writesAt 0x10 [e])
      (popped ++ (readsAt 0x10 [e]).map receivedByte) := by
  obtain ⟨hall, rfl, rfl, rfl⟩ := ht
  rw [Traffic, sinceGrant_append hg]
  refine ⟨fun e' he' => ?_, List.filterMap_append, List.filterMap_append, ?_⟩
  · obtain hold | hnew := List.mem_append.1 he'
    · exact hall e' hold
    · obtain rfl := List.mem_singleton.1 hnew
      exact ha
  · rw [← List.map_append]
    exact congrArg _ List.filterMap_append

theorem Traffic.append_untraced (ht : Traffic h tar data popped) {e : Event} (he : e.untraced = true) :
    Traffic (h ++ [e]) tar data popped := by
  obtain ⟨ha, htar, hdata, hpop⟩ : e.transferAccess = true ∧ writesAt 0x04 [e] = [] ∧ writesAt 0x10 [e] = [] ∧
      readsAt 0x10 [e] = [] := by
    cases e with
    | grant | regRead | regWrite => cases he
    | _ => exact ⟨rfl, rfl, rfl, rfl⟩
  simpa [htar, hdata, hpop] using ht.append (Event.isGrant_of_untraced he) ha

theorem Traffic.append_statusRead (ht : Traffic h tar data popped) (v : Word) :
    Traffic (h ++ [.regRead 0x70 v]) tar data popped := by
  simpa [writesAt, readsAt] using ht.append (e := .regRead 0x70 v) rfl rfl

theorem Traffic.append_tarWrite (ht : Traffic h tar data popped) (v : Word) :
    Traffic (h ++ [.regWrite 0x04 v]) (tar ++ [v]) data popped := by
  simpa [writesAt, readsAt] using ht.append (e := .regWrite 0x04 v) rfl rfl

theorem Traffic.append_dataWrite (ht : Traffic h tar data popped) (v : Word) :
    Traffic (h ++ [.regWrite 0x10 v]) tar (data ++ [v]) popped := by
  simpa [writesAt, readsAt] using ht.append (e := .regWrite 0x10 v) rfl rfl

theorem Traffic.append_dataRead (ht : Traffic h tar data popped) (v : Word) :
    Traffic (h ++ [.regRead 0x10 v]) tar data (popped ++ [receivedByte v]) := by
  simpa [writesAt, readsAt] using ht.append (e := .regRead 0x10 v) rfl rfl

end

/-- What keeps all traffic keeps the traffic of a phase. -/
theorem TrafficAt.of_traffic {h h' : List Event} {p : Phase} {i a : Nat} {ten : Bool} {got w : List Byte}
    (hkeep : ∀ tar data popped, Traffic h tar data popped → Traffic h' tar data popped)
    (hat : TrafficAt p i got a ten w h) : TrafficAt p i got a ten w h' := by
  cases p with
  | validate | busWait | addressSet | wrPoll | wrPush | rdPollTx | rdPush | rdPollRx | rdPop =>
    exact hat.imp_right (hkeep _ _ _)
  | _ => trivial

/-- A poll phase and the phase after it have the same traffic. -/
theorem TrafficAt.of_afterPoll {h : List Event} {p next : Phase} {i a : Nat} {ten : Bool} {got w : List Byte}
    (hp : p.afterPoll = some next) (hat : TrafficAt p i got a ten w h) : TrafficAt next i got a ten w h := by
  cases p with
  | busWait | wrPoll | rdPollTx | rdPollRx => cases hp; exact hat
  | _ => cases hp

/-! ### The tokens pushed (R201) -/

theorem pushes_take_succ {w : List Byte} {i : Nat} {b : Byte} (hb : w[i]? = some b) :
    pushes (w.take (i + 1)) 0 = pushes (w.take i) 0 ++ [writeTokenValue b] := by
  simp [pushes, List.take_add_one, hb]

theorem pushes_succ (w : List Byte) (k : Nat) : pushes w (k + 1) = pushes w k ++ [readTokenValue] := by
  simp [pushes, List.replicate_succ']

/-! ### The trace of a state, by its phase -/

/-- The phases whose traffic `TrafficAt` gives at the engine's own index and bytes. -/
def Phase.traced (p : Phase) : Prop :=
  p = .busWait ∨ p.transferring = true

theorem Phase.traced_of_afterPoll {p next : Phase} (hp : p.afterPoll = some next) : p.traced ∧ next.traced := by
  cases p with
  | busWait => cases hp; exact ⟨.inl rfl, .inr rfl⟩
  | wrPoll | rdPollTx | rdPollRx => cases hp; exact ⟨.inr rfl, .inr rfl⟩
  | _ => cases hp

section

variable {a n : Nat} {ten : Bool} {w : List Byte} {s t : State}

theorem transferTrace_of_noExecute (hq : ∀ a ten w n, s.req ≠ some (.execute a ten w n)) : TransferTrace s :=
  fun a ten w n h => absurd h (hq a ten w n)

/-- What is asked of every EXECUTE being served is asked of the one that is. -/
theorem forall_execute_iff (hq : s.req = some (.execute a ten w n)) {P : Nat → Bool → List Byte → Nat → Prop} :
    (∀ a' ten' w' n', s.req = some (.execute a' ten' w' n') → P a' ten' w' n') ↔ P a ten w n := by
  refine ⟨fun h => h a ten w n hq, fun h a' ten' w' n' hq' => ?_⟩
  cases hq.symm.trans hq'
  exact h

theorem transferTrace_iff_noAccess (hq : s.req = some (.execute a ten w n))
    (hp : s.phase = .validate ∨ s.phase = .abort) : TransferTrace s ↔ NoAccess (sinceGrant s.hist) := by
  refine (forall_execute_iff hq).trans ?_
  obtain hp | hp := hp <;> simp only [hp]

theorem transferTrace_iff_trafficAt {p : Phase} (hq : s.req = some (.execute a ten w n)) (hp : s.phase = p)
    (htr : p.traced) : TransferTrace s ↔ TrafficAt p s.idx s.rbuf a ten w s.hist := by
  refine (forall_execute_iff hq).trans ?_
  cases p with
  | busWait | addressSet | wrPoll | wrPush | rdPollTx | rdPush | rdPollRx | rdPop => simp only [hp]
  | _ => exact htr.elim nofun nofun

theorem transferTrace_iff_done (hq : s.req = some (.execute a ten w n)) (hp : s.phase = .done) :
    TransferTrace s ↔ s.rbuf.length = n ∧ s.result = some (.ok s.rbuf) ∧
      Traffic s.hist [tarValue a ten] (pushes w n) s.rbuf := by
  refine (forall_execute_iff hq).trans ?_
  simp only [hp]

theorem transferTrace_iff_timeout (hq : s.req = some (.execute a ten w n)) (hp : s.phase = .timeout) :
    TransferTrace s ↔ ∃ info, s.result = some (.err .timeout (some info)) ∧ info.bytesRead = s.rbuf ∧
      TrafficAt info.phase info.idx s.rbuf a ten w s.hist := by
  refine (forall_execute_iff hq).trans ?_
  simp only [hp]

/-! ### The steps that the trace does not see -/

/-- The engine's registers are those of `s`, and at most one untraced event is recorded. -/
structure State.TraceFrame (s t : State) : Prop where
  req : t.req = s.req := by rfl
  phase : t.phase = s.phase := by rfl
  idx : t.idx = s.idx := by rfl
  rbuf : t.rbuf = s.rbuf := by rfl
  result : t.result = s.result := by rfl
  hist : t.hist = s.hist ∨ ∃ e : Event, e.untraced = true ∧ t.hist = s.hist ++ [e]

theorem State.TraceFrame.raise (s : State) (x : FaultReason) : s.TraceFrame (s.raise x) :=
  ⟨s.raise_req x, s.raise_phase x, s.raise_idx x, s.raise_rbuf x, s.raise_result x, .inl (s.raise_hist x)⟩

theorem State.TraceFrame.advance (s : State) : s.TraceFrame s.advance :=
  ⟨s.advance_req, s.advance_phase, s.advance_idx, s.advance_rbuf, s.advance_result, .inl s.advance_hist⟩

namespace TransferTrace

theorem of_frame (hi : TransferTrace s) (h : s.TraceFrame t) : TransferTrace t := by
  have hkeep : ∀ tar data popped, Traffic s.hist tar data popped → Traffic t.hist tar data popped := by
    obtain heq | ⟨e, he, heq⟩ := h.hist <;> rw [heq]
    · exact fun _ _ _ => id
    · exact fun _ _ _ ht => ht.append_untraced he
  have hno : NoAccess (sinceGrant s.hist) → NoAccess (sinceGrant t.hist) := by
    obtain heq | ⟨e, he, heq⟩ := h.hist <;> rw [heq]
    · exact id
    · exact fun hn => hn.append he
  intro a ten w n hq
  have hs := hi a ten w n (h.req ▸ hq)
  rw [h.phase, h.idx, h.rbuf, h.result]
  cases hp : s.phase with rw [hp] at hs
  | done => exact hs.imp_right (And.imp_right (hkeep _ _ _))
  | timeout =>
    obtain ⟨info, hres, hbytes, hat⟩ := hs
    exact ⟨info, hres, hbytes, hat.of_traffic hkeep⟩
  | abort | validate => exact hno hs
  | _ => exact TrafficAt.of_traffic hkeep hs

/-! ### The steps of EXECUTE -/

theorem validateExecute (maxLen : Option Nat) (hq : s.req = some (.execute a ten w n))
    (hno : NoAccess (sinceGrant s.hist)) : TransferTrace (Machine.validateExecute maxLen a ten w n s) := by
  unfold Machine.validateExecute
  dsimp only
  split
  · exact Iff.mpr (transferTrace_iff_noAccess hq (.inr rfl)) hno
  · split
    · exact Iff.mpr (transferTrace_iff_noAccess hq (.inr rfl)) hno
    · exact Iff.mpr (transferTrace_iff_trafficAt hq rfl (.inl rfl)) ⟨rfl, .of_noAccess hno⟩

/-- A poll adds a STATUS read, which is no part of the traffic, and a Timeout names the phase polled in. -/
theorem pollAfter {next : Phase} (bound : Nat) (k : Wait) (success : Word → Bool) (v : Word)
    (hq : s.req = some (.execute a ten w n)) (hp : s.phase.afterPoll = some next) (hi : TransferTrace s) :
    TransferTrace (Machine.pollAfter bound k success next v (statusRead s)) := by
  obtain ⟨htr, hnext⟩ := Phase.traced_of_afterPoll hp
  have hat : TrafficAt s.phase s.idx s.rbuf a ten w (statusRead s).hist :=
    ((transferTrace_iff_trafficAt hq rfl htr).1 hi).of_traffic fun _ _ _ ht => ht.append_statusRead _
  by_cases hv : success v = true
  · rw [pollAfter_of_success hv]
    exact Iff.mpr (transferTrace_iff_trafficAt hq rfl hnext) (hat.of_afterPoll hp)
  · by_cases hlt : (statusRead s).cnt < bound
    · rw [pollAfter_of_failure hv hlt]
      exact Iff.mpr (transferTrace_iff_trafficAt hq rfl htr) hat
    · rw [pollAfter_of_bound hv hlt]
      exact Iff.mpr (transferTrace_iff_timeout hq rfl) ⟨_, rfl, rfl, hat⟩

/-- With nothing to write, the TAR write ends the write phase before it begins. -/
theorem afterAddress (hq : s.req = some (.execute a ten w n)) (hgot : s.rbuf = [])
    (ht : Traffic s.hist [tarValue a ten] [] []) : TransferTrace (Machine.afterAddress w.length s) := by
  cases w with
  | nil =>
    have hlen : s.rbuf.length = 0 := congrArg List.length hgot
    exact Iff.mpr (transferTrace_iff_trafficAt hq rfl (.inr rfl)) ⟨hlen, hgot.symm ▸ ht⟩
  | cons b bs => exact Iff.mpr (transferTrace_iff_trafficAt hq rfl (.inr rfl)) ⟨hgot, ht⟩

/-- After the push of byte `idx`: the bytes up to it are pushed, and after the last one that is all of them. -/
theorem afterPush (hq : s.req = some (.execute a ten w n)) (hgot : s.rbuf = [])
    (ht : Traffic s.hist [tarValue a ten] (pushes (w.take (s.idx + 1)) 0) []) :
    TransferTrace (Machine.afterPush w.length n s) := by
  have hlen : s.rbuf.length = 0 := congrArg List.length hgot
  unfold Machine.afterPush
  split
  · exact Iff.mpr (transferTrace_iff_trafficAt hq rfl (.inr rfl)) ⟨hgot, ht⟩
  next hlast =>
    rw [List.take_of_length_le (Nat.not_lt.1 hlast)] at ht
    split
    · exact Iff.mpr (transferTrace_iff_trafficAt hq rfl (.inr rfl)) ⟨hlen, hgot.symm ▸ ht⟩
    next hn =>
      obtain rfl := Nat.eq_zero_of_not_pos hn
      have hres : some (Result.ok []) = some (.ok s.rbuf) := by rw [hgot]
      exact Iff.mpr (transferTrace_iff_done hq rfl) ⟨hlen, hres, hgot.symm ▸ ht⟩

/-- After the pop of byte `idx`, which is one of the `n` to read. -/
theorem afterPop {v : Word} (hq : s.req = some (.execute a ten w n)) (hidx : s.idx < n) (hgot : s.rbuf.length = s.idx)
    (ht : Traffic s.hist [tarValue a ten] (pushes w (s.idx + 1)) (s.rbuf ++ [receivedByte v])) :
    TransferTrace (Machine.afterPop n v s) := by
  have hlen : (s.rbuf ++ [receivedByte v]).length = s.idx + 1 := by simp [hgot]
  unfold Machine.afterPop
  dsimp only
  split
  · exact Iff.mpr (transferTrace_iff_trafficAt hq rfl (.inr rfl)) ⟨hlen, ht⟩
  next hlast =>
    obtain rfl : s.idx + 1 = n := Nat.le_antisymm hidx (Nat.not_lt.1 hlast)
    exact Iff.mpr (transferTrace_iff_done hq rfl) ⟨hlen, rfl, ht⟩

theorem executeStep (hq : s.req = some (.execute a ten w n)) (hidx : s.phase = .rdPop → s.idx < n)
    (hi : TransferTrace s) (h : ExecuteStep a ten w n s t) : TransferTrace t := by
  have hat {p : Phase} (hp : s.phase = p) (htr : p.traced := by exact .inr rfl) :
      TrafficAt p s.idx s.rbuf a ten w s.hist := (transferTrace_iff_trafficAt hq hp htr).1 hi
  cases h with
  | held => exact hi
  | faulted x => exact hi.of_frame (.raise s x)
  | validated hp => exact validateExecute _ hq ((transferTrace_iff_noAccess hq (.inl hp)).1 hi)
  | polled bound k success hp => exact hi.pollAfter bound k success _ hq hp
  | addressed hp =>
    obtain ⟨hgot, ht⟩ := hat hp
    exact afterAddress hq hgot (ht.append_tarWrite _)
  | @bytePushed b hp hb =>
    obtain ⟨hgot, ht⟩ := hat hp
    obtain ⟨tx, st, heff⟩ := writeEffect_dataCmd_eq (writeTokenValue b) s
    rw [heff]
    exact afterPush hq hgot (pushes_take_succ hb ▸ ht.append_dataWrite _)
  | tokenPushed hp =>
    obtain ⟨hgot, ht⟩ := hat hp
    obtain ⟨tx, st, heff⟩ := writeEffect_dataCmd_eq readTokenValue s
    rw [heff]
    exact Iff.mpr (transferTrace_iff_trafficAt hq rfl (.inr rfl)) ⟨hgot, pushes_succ w s.idx ▸ ht.append_dataWrite _⟩
  | bytePopped v hp =>
    obtain ⟨hgot, ht⟩ := hat hp
    obtain ⟨rx, st, heff⟩ := Reg.readEffect_eq .dataCmd s
    rw [heff]
    exact afterPop hq (hidx hp) hgot (ht.append_dataRead v)

end TransferTrace

/-! ### The requests that transfer nothing -/

theorem engineWrite_req {r : Reg} {v : Word} {after : State → State} (hafter : ∀ u : State, (after u).req = u.req)
    (h : engineWrite r v after s = .next t) : t.req = s.req := by
  obtain ⟨x, -, rfl⟩ | ⟨-, rfl⟩ := engineWrite_next.1 h
  · exact s.raise_req x
  · obtain ⟨tx, rx, st, hist, heff⟩ := r.writeEffect_eq v s
    rw [hafter, heff]
    rfl

theorem poll_req {bound : Nat} {k : Wait} {success : Word → Bool} {next : Phase}
    (h : poll bound k success next s = .next t) : t.req = s.req := by
  obtain ⟨-, rfl⟩ | ⟨-, rfl⟩ := poll_next.1 h
  · exact s.raise_req _
  · obtain ⟨c, res, p, heq⟩ := pollAfter_eq bound k success next (Reg.readWith .status s.draw s) (statusRead s)
    rw [heq]
    rfl

theorem cfgStep_req (h : cfgStep s = .next t) : t.req = s.req := by
  unfold cfgStep at h
  split at h
  case h_9 => rw [hold_next.1 h]
  all_goals exact engineWrite_req (fun _ => by rfl) h

theorem validateInit_req (p : Params) (f : Nat) (s : State) : (validateInit p f s).req = s.req := by
  unfold validateInit
  split
  · rfl
  · split <;> rfl

theorem validateSetSpeed_req (p : Params) (f : Nat) (s : State) : (validateSetSpeed p f s).req = s.req := by
  unfold validateSetSpeed
  split
  · rfl
  · split <;> rfl

theorem execInit_req {f : Nat} (h : execInit f s = .next t) : t.req = s.req := by
  obtain ⟨-, ⟨-, h⟩ | ⟨-, rfl⟩⟩ := whileServing_next.1 h
  · split at h
    · cases h
      exact validateInit_req _ f s
    · exact cfgStep_req h
  · rfl

theorem execSetSpeed_req {f : Nat} (h : execSetSpeed f s = .next t) : t.req = s.req := by
  obtain ⟨-, ⟨-, h⟩ | ⟨-, rfl⟩⟩ := whileServing_next.1 h
  · split at h
    · cases h
      exact validateSetSpeed_req _ f s
    · exact poll_req h
    · exact cfgStep_req h
  · rfl

/-! ### The step -/

/-- While a byte is popped, the transfer's reads are not over (R180). -/
theorem RunInvariant.idx_lt_of_rdPop (hr : RunInvariant s) (hq : s.req = some (.execute a ten w n))
    (hp : s.phase = .rdPop) : s.idx < n := by
  obtain ⟨-, -, -, htransfer⟩ := hr.serves
  obtain ⟨-, a', ten', w', n', hq', -, hread, -⟩ := htransfer (hp ▸ rfl)
  cases hq.symm.trans hq'
  exact hread (hp ▸ rfl)

theorem token_traceFrame {tok : Token} (h : exec tok.instr s = .next t) : s.TraceFrame t := by
  obtain ⟨cmd, dat⟩ := tok
  cases cmd with
  | false =>
    obtain rfl | ⟨-, rfl⟩ := execWtok_next_cases h
    · exact { hist := .inl rfl }
    · exact { hist := .inr ⟨_, rfl, rfl⟩ }
  | true =>
    obtain rfl | ⟨-, rfl⟩ := execRtok_next_cases h
    · exact { hist := .inl rfl }
    · exact { hist := .inr ⟨_, rfl, rfl⟩ }

theorem State.taken_traceFrame (s : State) (tok : Token) (rest : List Token) : s.TraceFrame (s.taken tok rest) where
  hist := by
    cases hb : s.wire.busBusy with
    | true => exact .inl (by simp [State.taken, hb])
    | false => exact .inr ⟨.wStart s.target, rfl, by simp [State.taken, hb]⟩

namespace TransferTrace

theorem granted (s : State) (r : Requester) (q : Request) : TransferTrace (s.granted r q) := by
  intro a ten w n _
  have hempty : sinceGrant (s.granted r q).hist = [] := sinceGrant_append_grant s.hist r q
  show NoAccess _
  rw [hempty]
  exact nofun

theorem runMove {m : Move} (hi : TransferTrace s) (h : runMove m s = .next t) : TransferTrace t := by
  cases m with
  | access x =>
    obtain ⟨-, h⟩ := whenRunning_next.1 h
    cases h
    exact hi.of_frame (.raise s _)
  | engine | wComplete => exact hold_next.1 (whenRunning_next.1 h).2 ▸ hi
  | wTake =>
    obtain rfl | ⟨tok, rest, -, -, -, rfl⟩ := wireTake_next_cases h
    · exact hi
    · exact hi.of_frame (s.taken_traceFrame tok rest)
  | wEnd =>
    obtain rfl | ⟨-, rfl⟩ := wireEnd_next_cases h
    · exact hi
    · exact hi.of_frame { hist := .inr ⟨.wStop, rfl, rfl⟩ }
  | wAbort =>
    obtain rfl | ⟨-, rfl⟩ := wireAbort_next_cases h
    · exact hi
    · exact hi.of_frame { hist := .inr ⟨.wAbort, rfl, rfl⟩ }
  | grant r =>
    obtain rfl | ⟨q, -, -, -, -, rfl⟩ := grant_next_cases h
    · exact hi
    · exact granted s r q
  | release =>
    obtain rfl | ⟨r, res, -, -, -, rfl⟩ := release_next_cases h
    · exact hi
    · exact transferTrace_of_noExecute nofun
  | issue r rec =>
    obtain rfl | ⟨q, -, -, rfl⟩ := issueRecord_next_cases h
    · exact hi
    · exact hi.of_frame { hist := .inl rfl }
  | collect r =>
    obtain rfl | ⟨res, -, rfl⟩ := collect_next_cases h
    · exact hi
    · exact hi.of_frame { hist := .inl rfl }
  | helper r addr hp =>
    obtain rfl | ⟨-, ⟨q, -, rfl⟩ | ⟨res, -, rfl⟩⟩ := callHelper_next_cases h
    · exact hi
    · exact hi.of_frame { hist := .inl rfl }
    · exact hi.of_frame { hist := .inl rfl }

theorem execRequest {q : Request} (hr : RunInvariant s) (hi : TransferTrace s) (hq : s.req = some q)
    (h : exec q.instr s.advance = .next t) : TransferTrace t := by
  have hq' : s.advance.req = some q := s.advance_req.trans hq
  cases q with
  | init f => exact transferTrace_of_noExecute (by rw [execInit_req h, hq']; nofun)
  | setSpeed f => exact transferTrace_of_noExecute (by rw [execSetSpeed_req h, hq']; nofun)
  | execute a ten w n =>
    refine executeStep hq' (fun hp => ?_) (hi.of_frame (.advance s)) (execExecute_next_cases h)
    rw [State.advance_idx]
    exact hr.idx_lt_of_rdPop hq (s.advance_phase ▸ hp)

theorem step (hr : RunInvariant s) (hi : TransferTrace s) (ho : s.nextMove.own = true) (h : step s = .next t) :
    TransferTrace t := by
  have hadv := hi.of_frame (.advance s)
  obtain rfl | ⟨q, hq, h⟩ | ⟨tok, -, h⟩ | h := step_own_cases ho h
  · exact hadv
  · exact execRequest hr hi hq h
  · exact hadv.of_frame (token_traceFrame h)
  · exact hadv.runMove h

end TransferTrace

end

/-- Settles O51: a step of EXECUTE adds to the traffic the one access by which its next phase's differs (`executeStep`);
a grant begins a new trace and a release ends it; the trace does not see any other step (`State.TraceFrame`). -/
theorem transferTraceKept : Obligations.TransferTraceKept :=
  fun _ _ hr hi ho h => hi.step hr ho h

end Sys2Proof.Machine
end

section
/-! PROOFS. GRANT, RELEASE, ISSUE and COLLECT (44_bus_lock.md R221 to R226, 30_encoding.md R90): where the rule of a
move enables it, its next state; where it does not, nothing but the schedule changes. -/

namespace Sys2Proof.Machine

/-- A scheduled move that fetches no instruction does what its own rule says. -/
theorem step_of_sched_other {s : State} {m : Move} {rest : List Move} (hs : s.faults = [])
    (hsched : s.sched = m :: rest) (hf : fetch s = none) : step s = runMove m { s with sched := rest } := by
  rw [step_of_fetch_none hs hf, State.nextMove_of_sched hsched, State.advance_of_sched hsched]

section

variable {s : State} {r : Requester}

/-! ### GRANT (R221, R226) -/

theorem mayGrant_iff {order : LockOrder} : mayGrant order r s = true ↔ (order = .fifo → s.waitQ.head? = some r) := by
  cases order <;> simp [mayGrant]

theorem grant_of_enabled {order : LockOrder} {q : Request} (hs : s.faults = []) (hr : s.rq[r]? = some (.waiting q))
    (hl : s.lockOwner = none) (hp : s.phase = .idle) (hm : mayGrant order r s = true) :
    grant order r s = .next (s.granted r q) := by
  unfold grant State.rqOf
  rw [hr]
  exact guarded_of_pos hs (by simp [hl, hp, hm])

theorem grant_of_not_enabled {order : LockOrder} (hs : s.faults = [])
    (hn : s.lockOwner ≠ none ∨ s.phase ≠ .idle ∨ (∀ q, s.rq[r]? ≠ some (.waiting q)) ∨ mayGrant order r s = false) :
    grant order r s = .next s := by
  unfold grant State.rqOf
  split
  next q hq =>
    refine guarded_of_neg hs fun hg => ?_
    simp only [Bool.and_eq_true, Option.isNone_iff_eq_none, decide_eq_true_eq] at hg
    obtain ⟨⟨hl, hp⟩, hm⟩ := hg
    obtain h | h | h | h := hn
    · exact h hl
    · exact h hp
    · exact h q hq
    · exact Bool.noConfusion (hm.symm.trans h)
  · exact whenRunning_of_unfaulted hs _

/-- Settles O36: the guard of `grant` is the statement's four conditions. -/
theorem grantStep : Obligations.GrantStep := by
  intro r s rest hs hsched
  have hstep : step s = grant s.params.lockOrder r { s with sched := rest } :=
    step_of_sched_other hs hsched (by simp only [fetch, State.nextMove_of_sched hsched])
  rw [hstep]
  refine ⟨fun q hl hp hr horder => ?_, fun hn => ?_⟩
  · exact grant_of_enabled hs hr hl hp (mayGrant_iff.2 horder)
  · refine grant_of_not_enabled hs ?_
    rwa [← Bool.not_eq_true, mayGrant_iff, Classical.not_imp]

/-! ### RELEASE (R222, R249) -/

theorem Phase.terminal_iff {p : Phase} : p.terminal = true ↔ p = .done ∨ p = .timeout ∨ p = .abort := by
  cases p <;> simp [Phase.terminal]

theorem release_of_terminal {res : Result} (hs : s.faults = []) (hp : s.phase.terminal = true)
    (ho : s.owner = some r) (hres : s.result = some res) : release s = .next (s.released r res) := by
  rw [release, whenRunning_of_unfaulted hs, if_pos hp, ho, hres]
  rfl

theorem release_of_not_terminal (hs : s.faults = []) (hp : s.phase.terminal = false) : release s = .next s := by
  rw [release, whenRunning_of_unfaulted hs, hp]
  rfl

/-- Settles O37: in a terminal phase the step is the release, in any other it holds. -/
theorem releaseStep : Obligations.ReleaseStep := by
  intro s rest hs hsched
  have hstep : step s = release { s with sched := rest } :=
    step_of_sched_other hs hsched (by simp only [fetch, State.nextMove_of_sched hsched])
  rw [hstep]
  refine ⟨fun r res hp ho hres => ?_, fun hp => ?_⟩
  · exact release_of_terminal hs (Phase.terminal_iff.2 hp) ho hres
  · refine release_of_not_terminal hs ?_
    rwa [← Bool.not_eq_true, Phase.terminal_iff, not_or, not_or]

/-! ### ISSUE and COLLECT (R224, R225, R90) -/

theorem issueRecord_record (q : Request) (hs : s.faults = []) : issueRecord r q.record s = issue r q none s := by
  rw [issueRecord, whenRunning_of_unfaulted hs, requestOf_record]

theorem requestOf_of_kind_three {rec : ReqRecord} (h : rec.kind = 3#2) : requestOf rec = none := by
  simp [requestOf, decode, decodeReq, h]

theorem issueRecord_of_kind_three {rec : ReqRecord} (hs : s.faults = []) (h : rec.kind = 3#2) :
    issueRecord r rec s = .refused .reservedRequestKind := by
  rw [issueRecord, whenRunning_of_unfaulted hs, requestOf_of_kind_three h]

theorem issue_of_quiet {q : Request} {call : Option Helper} (hs : s.faults = []) (hr : s.rq[r]? = some .quiet) :
    issue r q call s = .next (s.issued r q call) := by
  rw [issue, whenRunning_of_unfaulted hs, State.rqOf, hr]
  rfl

theorem issue_of_not_quiet {q : Request} {call : Option Helper} (hs : s.faults = []) (hr : s.rq[r]? ≠ some .quiet) :
    issue r q call s = .next s := by
  rw [issue, whenRunning_of_unfaulted hs]
  split
  next h => exact absurd h hr
  · rfl

theorem collect_of_returned {res : Result} (hs : s.faults = []) (hr : s.rq[r]? = some (.returned res)) :
    collect r s = .next { s.setRq r .quiet with delivered := some (r, returnOf (s.callOf r) res) } := by
  rw [collect, whenRunning_of_unfaulted hs, State.rqOf, hr]

theorem collect_of_not_returned (hs : s.faults = []) (hr : ∀ res, s.rq[r]? ≠ some (.returned res)) :
    collect r s = .next s := by
  rw [collect, whenRunning_of_unfaulted hs]
  split
  next res h => exact absurd h (hr res)
  · rfl

/-- The byte of its Ok is what a `read_register` call returns (R230). -/
theorem returnOf_readRegister {reg b : Byte} {bs : List Byte} (hc : s.calls[r]? = some (some (.readRegister reg))) :
    returnOf (s.callOf r) (.ok (b :: bs)) = .byte b := by
  rw [State.callOf, List.getD_eq_getElem?_getD, hc]
  rfl

/-- Any other call, and an Ok with no byte or an Err, returns the result as it is (R225). -/
theorem returnOf_other {res : Result}
    (h : (∀ reg, s.calls[r]? ≠ some (some (.readRegister reg))) ∨ ∀ b bs, res ≠ .ok (b :: bs)) :
    returnOf (s.callOf r) res = .result res := by
  unfold returnOf
  split
  next reg b bs hc =>
    obtain h | h := h
    · rw [State.callOf, List.getD_eq_getElem?_getD] at hc
      cases hget : s.calls[r]? with
      | none =>
        rw [hget] at hc
        cases hc
      | some call =>
        rw [hget] at hc
        exact absurd (hget.trans (congrArg some hc)) (h reg)
    · exact absurd rfl (h b bs)
  · rfl

/-- Settles O38: ISSUE and COLLECT by the requester's state, and what the call returns by `returnOf`. -/
theorem issueAndCollect : Obligations.IssueAndCollect := by
  intro r s rest hs
  have hissue {rec : ReqRecord} (hsched : s.sched = .issue r rec :: rest) :
      step s = issueRecord r rec { s with sched := rest } :=
    step_of_sched_other hs hsched (by simp only [fetch, State.nextMove_of_sched hsched])
  refine ⟨fun q hsched => ?_, fun rec hsched hk => (hissue hsched).trans (issueRecord_of_kind_three hs hk),
    fun hsched => ?_⟩
  · rw [hissue hsched, issueRecord_record q (s := { s with sched := rest }) hs]
    exact ⟨issue_of_quiet (s := { s with sched := rest }) hs, issue_of_not_quiet (s := { s with sched := rest }) hs⟩
  · have hcollect : step s = collect r { s with sched := rest } :=
      step_of_sched_other hs hsched (by simp only [fetch, State.nextMove_of_sched hsched])
    rw [hcollect]
    refine ⟨fun reg b bs hr hc => ?_, fun res hr hc => ?_, fun hr => ?_⟩
    · rw [collect_of_returned (s := { s with sched := rest }) hs hr,
        returnOf_readRegister (s := { s with sched := rest }) hc]
      rfl
    · rw [collect_of_returned (s := { s with sched := rest }) hs hr, returnOf_other (s := { s with sched := rest }) hc]
      rfl
    · exact collect_of_not_returned (s := { s with sched := rest }) hs hr

end

end Sys2Proof.Machine
end

section
/-! PROOFS. The lock and the requesters under every step (44_bus_lock.md R220 to R229): what a step can do to them, and
the lock invariant, the issue order and the requests outstanding that this keeps. -/

namespace Sys2Proof.Machine

/-- The lock, the requesters and the request served are in `t` as in `s`, and the engine is IDLE in both or in
neither. -/
structure State.LockFrame (s t : State) : Prop where
  rq : t.rq = s.rq := by rfl
  waitQ : t.waitQ = s.waitQ := by rfl
  lockOwner : t.lockOwner = s.lockOwner := by rfl
  owner : t.owner = s.owner := by rfl
  req : t.req = s.req := by rfl
  idle : t.phase = .idle ↔ s.phase = .idle := by rfl

namespace State.LockFrame

/-- An update of other fields and of the phase, while a request is served. -/
theorem of_serving {s t : State} (hs : s.phase ≠ .idle) (ht : t.phase ≠ .idle) (hrq : t.rq = s.rq := by rfl)
    (hw : t.waitQ = s.waitQ := by rfl) (hl : t.lockOwner = s.lockOwner := by rfl) (ho : t.owner = s.owner := by rfl)
    (hq : t.req = s.req := by rfl) : s.LockFrame t :=
  ⟨hrq, hw, hl, ho, hq, iff_of_false ht hs⟩

theorem trans {s t u : State} (hst : s.LockFrame t) (htu : t.LockFrame u) : s.LockFrame u where
  rq := htu.rq.trans hst.rq
  waitQ := htu.waitQ.trans hst.waitQ
  lockOwner := htu.lockOwner.trans hst.lockOwner
  owner := htu.owner.trans hst.owner
  req := htu.req.trans hst.req
  idle := htu.idle.trans hst.idle

theorem raise (s : State) (x : FaultReason) : s.LockFrame (s.raise x) :=
  ⟨s.raise_rq x, s.raise_waitQ x, s.raise_lockOwner x, s.raise_owner x, s.raise_req x, by rw [s.raise_phase x]⟩

theorem advance (s : State) : s.LockFrame s.advance :=
  ⟨s.advance_rq, s.advance_waitQ, s.advance_lockOwner, s.advance_owner, s.advance_req, by rw [s.advance_phase]⟩

theorem of_hold {s t : State} (h : hold s = .next t) : s.LockFrame t := by
  obtain rfl := hold_next.1 h
  exact {}

end State.LockFrame

section

variable {s t : State}

/-! ### Register accesses and the engine's steps: none touches the lock or a requester -/

theorem Reg.readEffect_lockFrame (r : Reg) (s : State) : s.LockFrame (r.readEffect s) := by
  obtain ⟨rx, st, heff⟩ := r.readEffect_eq s
  rw [heff]
  exact {}

theorem Reg.writeEffect_lockFrame (r : Reg) (v : Word) (s : State) : s.LockFrame (r.writeEffect v s) := by
  obtain ⟨tx, rx, st, hist, heff⟩ := r.writeEffect_eq v s
  rw [heff]
  exact {}

theorem runRead_lockFrame {r : Reg} (h : runRead r s = .next t) : s.LockFrame t := by
  obtain ⟨-, ⟨x, -, rfl⟩ | ⟨-, rfl⟩⟩ := runRead_next.1 h
  · exact .raise s x
  · exact (r.readEffect_lockFrame s).trans {}

theorem runWrite_lockFrame {r : Reg} {v : Word} (h : runWrite r v s = .next t) : s.LockFrame t := by
  obtain ⟨-, ⟨x, -, rfl⟩ | ⟨-, rfl⟩⟩ := runWrite_next.1 h
  · exact .raise s x
  · exact (r.writeEffect_lockFrame v s).trans {}

theorem runIllegal_lockFrame {x : FaultReason} (h : runIllegal x s = .next t) : s.LockFrame t := by
  obtain ⟨-, h⟩ := whenRunning_next.1 h
  cases h
  exact .raise s _

theorem pollAfter_lockFrame (bound : Nat) (k : Wait) (success : Word → Bool) {next : Phase} (v : Word)
    (hs : s.phase ≠ .idle) (hnext : next ≠ .idle) : s.LockFrame (pollAfter bound k success next v s) := by
  unfold pollAfter
  split
  · exact .of_serving hs hnext
  · split
    · exact {}
    · exact .of_serving hs nofun

theorem poll_lockFrame {bound : Nat} {k : Wait} {success : Word → Bool} {next : Phase} (hs : s.phase ≠ .idle)
    (hnext : next ≠ .idle) (h : poll bound k success next s = .next t) : s.LockFrame t := by
  obtain ⟨-, rfl⟩ | ⟨-, rfl⟩ := poll_next.1 h
  · exact .raise s _
  · exact .trans {} (pollAfter_lockFrame (s := statusRead s) bound k success _ hs hnext)

theorem engineWrite_lockFrame {r : Reg} {v : Word} {after : State → State} (hs : s.phase ≠ .idle)
    (hafter : ∀ u : State, u.phase ≠ .idle → u.LockFrame (after u)) (h : engineWrite r v after s = .next t) :
    s.LockFrame t := by
  obtain ⟨x, -, rfl⟩ | ⟨-, rfl⟩ := engineWrite_next.1 h
  · exact .raise s x
  · have hw : s.LockFrame ((r.writeEffect v s).record (.regWrite r.offset v)) :=
      (r.writeEffect_lockFrame v s).trans {}
    exact hw.trans (hafter _ (hw.idle.not.2 hs))

/-- The phase read off is not IDLE. -/
theorem serving_of_phase {p : Phase} (hp : s.phase = p) (h : p ≠ .idle := by exact nofun) : s.phase ≠ .idle :=
  hp ▸ h

theorem toPhase_lockFrame {p : Phase} (hs : s.phase ≠ .idle) (hp : p ≠ .idle := by exact nofun) :
    s.LockFrame (toPhase p s) :=
  .of_serving hs hp

theorem commitConfig_lockFrame (hs : s.phase ≠ .idle) : s.LockFrame (commitConfig s) :=
  .of_serving hs nofun

theorem cfgStep_lockFrame (h : cfgStep s = .next t) : s.LockFrame t := by
  by_cases hs : s.phase = .idle
  · simp only [cfgStep, hs] at h
    exact .of_hold h
  · unfold cfgStep at h
    split at h
    case h_8 => exact engineWrite_lockFrame hs (fun _ => commitConfig_lockFrame) h
    case h_9 => exact .of_hold h
    all_goals exact engineWrite_lockFrame hs (fun _ hu => toPhase_lockFrame hu) h

theorem validateInit_lockFrame (p : Params) (f : Nat) (hs : s.phase ≠ .idle) : s.LockFrame (validateInit p f s) := by
  unfold validateInit
  split
  · exact .of_serving hs nofun
  · split <;> exact .of_serving hs nofun

theorem validateSetSpeed_lockFrame (p : Params) (f : Nat) (hs : s.phase ≠ .idle) :
    s.LockFrame (validateSetSpeed p f s) := by
  unfold validateSetSpeed
  split
  · exact .of_serving hs nofun
  · split <;> exact .of_serving hs nofun

theorem validateExecute_lockFrame (maxLen : Option Nat) (a : Nat) (ten : Bool) (w : List Byte) (n : Nat)
    (hs : s.phase ≠ .idle) : s.LockFrame (validateExecute maxLen a ten w n s) := by
  unfold validateExecute
  dsimp only
  split
  · exact .of_serving hs nofun
  · split <;> exact .of_serving hs nofun

theorem afterAddress_lockFrame (wlen : Nat) (hs : s.phase ≠ .idle) : s.LockFrame (afterAddress wlen s) := by
  refine .of_serving hs ?_
  unfold afterAddress
  dsimp only
  split <;> exact nofun

theorem afterPush_lockFrame (wlen rlen : Nat) (hs : s.phase ≠ .idle) : s.LockFrame (afterPush wlen rlen s) := by
  unfold afterPush
  split
  · exact .of_serving hs nofun
  · split <;> exact .of_serving hs nofun

theorem afterPop_lockFrame (rlen : Nat) (v : Word) (hs : s.phase ≠ .idle) : s.LockFrame (afterPop rlen v s) := by
  unfold afterPop
  dsimp only
  split <;> exact .of_serving hs nofun

theorem Phase.serving_of_afterPoll {p next : Phase} (h : p.afterPoll = some next) : p ≠ .idle ∧ next ≠ .idle := by
  cases p with
  | busWait | wrPoll | rdPollTx | rdPollRx => cases h; exact ⟨nofun, nofun⟩
  | _ => cases h

theorem ExecuteStep.lockFrame {a n : Nat} {ten : Bool} {w : List Byte} (h : ExecuteStep a ten w n s t) :
    s.LockFrame t := by
  cases h with
  | held => exact {}
  | faulted x => exact .raise s x
  | validated hp => exact validateExecute_lockFrame _ a ten w n (serving_of_phase hp)
  | polled bound k success hp =>
    obtain ⟨hs, hnext⟩ := Phase.serving_of_afterPoll hp
    exact .trans {} (pollAfter_lockFrame (s := statusRead s) bound k success _ hs hnext)
  | addressed hp =>
    have hw := Reg.writeEffect_lockFrame .tar (tarValue a ten) s
    exact (hw.trans {}).trans (afterAddress_lockFrame _ (hw.idle.not.2 (serving_of_phase hp)))
  | @bytePushed b hp hb =>
    have hw := Reg.writeEffect_lockFrame .dataCmd (writeTokenValue b) s
    exact (hw.trans {}).trans (afterPush_lockFrame _ _ (hw.idle.not.2 (serving_of_phase hp)))
  | tokenPushed hp =>
    have hw := Reg.writeEffect_lockFrame .dataCmd readTokenValue s
    exact hw.trans (.of_serving (hw.idle.not.2 (serving_of_phase hp)) nofun)
  | bytePopped v hp =>
    have hr := Reg.readEffect_lockFrame .dataCmd s
    exact (hr.trans {}).trans (afterPop_lockFrame _ v (hr.idle.not.2 (serving_of_phase hp)))

theorem execInit_lockFrame {f : Nat} (h : execInit f s = .next t) : s.LockFrame t := by
  obtain ⟨-, ⟨-, h⟩ | ⟨-, rfl⟩⟩ := whileServing_next.1 h
  · split at h
    next hp =>
      cases h
      exact validateInit_lockFrame _ f (serving_of_phase hp)
    · exact cfgStep_lockFrame h
  · exact {}

theorem execSetSpeed_lockFrame {f : Nat} (h : execSetSpeed f s = .next t) : s.LockFrame t := by
  obtain ⟨-, ⟨-, h⟩ | ⟨-, rfl⟩⟩ := whileServing_next.1 h
  · split at h
    next hp =>
      cases h
      exact validateSetSpeed_lockFrame _ f (serving_of_phase hp)
    next hp => exact poll_lockFrame (next := .cfgDisable) (serving_of_phase hp) nofun h
    · exact cfgStep_lockFrame h
  · exact {}

/-- No instruction is a step of the lock or of a requester. -/
theorem exec_lockFrame {i : Instr} (h : exec i s = .next t) : s.LockFrame t := by
  cases i with
  | rdCon | rdTar | rdSar | rdDataCmd | rdSsHcnt | rdSsLcnt | rdFsHcnt | rdFsLcnt | rdIntrStat | rdIntrMask
  | rdRawIntrStat | rdRxTl | rdTxTl | rdClrIntr | rdEnable | rdStatus | rdTxflr | rdRxflr => exact runRead_lockFrame h
  | wrCon | wrTar | wrSar | wrDataCmd | wrSsHcnt | wrSsLcnt | wrFsHcnt | wrFsLcnt | wrIntrMask | wrRxTl | wrTxTl
  | wrEnable => exact runWrite_lockFrame h
  | wtok dat => obtain rfl | ⟨-, rfl⟩ := execWtok_next_cases h <;> exact {}
  | rtok dat => obtain rfl | ⟨-, rfl⟩ := execRtok_next_cases h <;> exact {}
  | init f => exact execInit_lockFrame h
  | setSpeed f => exact execSetSpeed_lockFrame h
  | execute a ten w n => exact (execExecute_next_cases h).lockFrame

/-! ### All that a step can do to the lock and the requesters -/

/-- All that a step whose move is `m` can do to the lock and the requesters: nothing; grant a waiting requester; release
the owner; let a quiet requester issue, or one whose request has returned collect. -/
inductive State.LockStep (m : Move) (s t : State) : Prop
  | framed (h : s.LockFrame t)
  | granted (r : Requester) (q : Request) (hm : m = .grant r) (hr : s.rq[r]? = some (.waiting q))
      (hl : s.lockOwner = none) (hp : s.phase = .idle) (ht : t = s.granted r q)
  | released (r : Requester) (res : Result) (hm : m = .release) (hp : s.phase.terminal = true) (ho : s.owner = some r)
      (ht : t = s.released r res)
  | issued (r : Requester) (q : Request) (call : Option Helper) (hr : s.rq[r]? = some .quiet)
      (ht : t = s.issued r q call)
  | collected (r : Requester) (res : Result) (d : Returned) (hr : s.rq[r]? = some (.returned res))
      (ht : t = { s.setRq r .quiet with delivered := some (r, d) })

theorem runUndecoded_lockFrame {e : DecodeError} (h : runUndecoded e s = .next t) : s.LockFrame t := by
  cases e with
  | badAccess | roWrite | reservedBits => exact runIllegal_lockFrame h
  | reservedKind => cases (whenRunning_next.1 h).2

theorem runMove_lockStep {m : Move} (h : runMove m s = .next t) : s.LockStep m t := by
  cases m with
  | access a => exact .framed (runIllegal_lockFrame h)
  | engine | wComplete => exact .framed (.of_hold (whenRunning_next.1 h).2)
  | wTake => obtain rfl | ⟨tok, rest, -, -, -, rfl⟩ := wireTake_next_cases h <;> exact .framed {}
  | wEnd => obtain rfl | ⟨-, rfl⟩ := wireEnd_next_cases h <;> exact .framed {}
  | wAbort => obtain rfl | ⟨-, rfl⟩ := wireAbort_next_cases h <;> exact .framed {}
  | grant r =>
    obtain rfl | ⟨q, hr, hl, hp, -, rfl⟩ := grant_next_cases h
    · exact .framed {}
    · exact .granted r q rfl hr hl hp rfl
  | release =>
    obtain rfl | ⟨r, res, hp, ho, -, rfl⟩ := release_next_cases h
    · exact .framed {}
    · exact .released r res rfl hp ho rfl
  | issue r rec =>
    obtain rfl | ⟨q, -, hr, rfl⟩ := issueRecord_next_cases h
    · exact .framed {}
    · exact .issued r q none hr rfl
  | collect r =>
    obtain rfl | ⟨res, hr, rfl⟩ := collect_next_cases h
    · exact .framed {}
    · exact .collected r res _ hr rfl
  | helper r addr hp =>
    obtain rfl | ⟨hr, ⟨q, -, rfl⟩ | ⟨res, -, rfl⟩⟩ := callHelper_next_cases h
    · exact .framed {}
    · exact .issued r q (some hp) hr rfl
    · exact .framed {}

/-- A step does what `State.LockStep` says to the state in which its move has been chosen. -/
theorem step_lockStep (h : step s = .next t) : s.advance.LockStep s.nextMove t := by
  obtain ⟨-, ⟨c, i, -, -, h⟩ | ⟨c, e, -, -, h⟩ | ⟨-, h⟩⟩ := step_next_cases h
  · exact .framed (exec_lockFrame h)
  · exact .framed (runUndecoded_lockFrame h)
  · exact runMove_lockStep h

/-! ### One requester's change of state (R48) -/

theorem State.setRq_rq_self {r : Requester} {x y : RqState} (h : s.rq[r]? = some y) :
    (s.setRq r x).rq[r]? = some x := by
  obtain ⟨hr, -⟩ := List.getElem?_eq_some_iff.1 h
  exact List.getElem?_set_self hr

theorem State.setRq_rq_ne {r r' : Requester} (hne : r' ≠ r) (x : RqState) : (s.setRq r x).rq[r']? = s.rq[r']? :=
  List.getElem?_set_ne hne.symm

/-- Who is in a state that the change is neither from nor to stays the same. -/
theorem State.setRq_rq_iff {r : Requester} {x y z : RqState} (h : s.rq[r]? = some y) (r' : Requester)
    (hx : x ≠ z := by exact nofun) (hy : y ≠ z := by exact nofun) :
    (s.setRq r x).rq[r']? = some z ↔ s.rq[r']? = some z := by
  by_cases hne : r' = r
  · subst hne
    rw [setRq_rq_self h, h, Option.some_inj, Option.some_inj]
    exact iff_of_false hx hy
  · rw [setRq_rq_ne hne]

/-! ### The lock invariant (R220) -/

namespace LockInvariant

/-- The invariant speaks only of who is active, the lock's owner, the request served and whether the engine is IDLE. -/
theorem of_same (hi : LockInvariant s)
    (hrq : ∀ (r : Requester) q, t.rq[r]? = some (.active q) ↔ s.rq[r]? = some (.active q))
    (hl : t.lockOwner = s.lockOwner) (ho : t.owner = s.owner) (hq : t.req = s.req)
    (hp : t.phase = .idle ↔ s.phase = .idle) : LockInvariant t := by
  simpa only [LockInvariant, hrq, hl, ho, hq, ne_eq, hp] using hi

theorem of_lockFrame (hi : LockInvariant s) (h : s.LockFrame t) : LockInvariant t :=
  hi.of_same (fun _ _ => by rw [h.rq]) h.lockOwner h.owner h.req h.idle

/-- Only the lock's owner is active. -/
theorem not_active (hi : LockInvariant s) (hl : s.lockOwner = none) (r : Requester) (q : Request) :
    s.rq[r]? ≠ some (.active q) := by
  intro h
  obtain ⟨hlock, -, -⟩ := hi
  have hr := (hlock r).2 ⟨q, h⟩
  rw [hl] at hr
  cases hr

/-- While the engine is not IDLE it serves the request of an active requester. -/
theorem active_of_serving (hi : LockInvariant s) (hp : s.phase ≠ .idle) :
    ∃ r q, s.rq[r]? = some (.active q) ∧ s.owner = some r ∧ s.req = some q := by
  obtain ⟨hlock, hactive, hfree⟩ := hi
  obtain ⟨r, hr⟩ := Option.ne_none_iff_exists'.1 fun hl => hp (hfree.1 hl).1
  obtain ⟨q, hq⟩ := (hlock r).1 hr
  obtain ⟨ho, hreq, -⟩ := hactive r q hq
  exact ⟨r, q, hq, ho, hreq⟩

/-- The requester to which a terminal phase returns is active. -/
theorem active_of_owner (hi : LockInvariant s) {r : Requester} (hp : s.phase ≠ .idle) (ho : s.owner = some r) :
    ∃ q, s.rq[r]? = some (.active q) := by
  obtain ⟨r', q, hq, ho', -⟩ := hi.active_of_serving hp
  obtain rfl := Option.some.inj (ho.symm.trans ho')
  exact ⟨q, hq⟩

theorem granted (hi : LockInvariant s) {r : Requester} {q : Request} (hr : s.rq[r]? = some (.waiting q))
    (hl : s.lockOwner = none) : LockInvariant (s.granted r q) := by
  have hactive : ∀ (r' : Requester) q', (s.granted r q).rq[r']? = some (.active q') ↔ r' = r ∧ q' = q := by
    intro r' q'
    by_cases hne : r' = r
    · subst hne
      have hself : (s.granted r' q).rq[r']? = some (.active q) := State.setRq_rq_self hr
      rw [hself, Option.some_inj, RqState.active.injEq, eq_comm]
      exact (and_iff_right rfl).symm
    · refine iff_of_false (fun h => hi.not_active hl r' q' ?_) fun h => hne h.1
      exact (State.setRq_rq_ne hne _).symm.trans h
  refine ⟨fun r' => ⟨fun h => ?_, fun ⟨q', h⟩ => ?_⟩, fun r' q' h => ?_, nofun, nofun⟩
  · exact ⟨q, (hactive r' q).2 ⟨(Option.some.inj h).symm, rfl⟩⟩
  · obtain ⟨rfl, -⟩ := (hactive r' q').1 h
    rfl
  · obtain ⟨rfl, rfl⟩ := (hactive r' q').1 h
    exact ⟨rfl, rfl, nofun⟩

theorem released (hi : LockInvariant s) {r : Requester} (hp : s.phase ≠ .idle) (ho : s.owner = some r)
    (res : Result) : LockInvariant (s.released r res) := by
  obtain ⟨q, hq⟩ := hi.active_of_owner hp ho
  obtain ⟨-, hactive, -⟩ := hi
  have hnone : ∀ (r' : Requester) q', (s.released r res).rq[r']? ≠ some (.active q') := by
    intro r' q' h
    by_cases hne : r' = r
    · subst hne
      cases (State.setRq_rq_self hq).symm.trans h
    · obtain ⟨ho', -, -⟩ := hactive r' q' ((State.setRq_rq_ne hne _).symm.trans h)
      exact hne (Option.some.inj (ho'.symm.trans ho))
  exact ⟨fun r' => ⟨nofun, fun ⟨q', h⟩ => absurd h (hnone r' q')⟩, fun r' q' h => absurd h (hnone r' q'),
    fun _ => ⟨rfl, rfl, rfl⟩, fun _ => rfl⟩

theorem lockStep {m : Move} (hi : LockInvariant s) (h : s.LockStep m t) : LockInvariant t := by
  cases h with
  | framed h => exact hi.of_lockFrame h
  | granted r q hm hr hl hp ht => exact ht ▸ hi.granted hr hl
  | released r res hm hp ho ht => exact ht ▸ hi.released (fun hidle => by rw [hidle] at hp; cases hp) ho res
  | issued r q call hr ht =>
    subst ht
    exact hi.of_same (fun r' q' => State.setRq_rq_iff hr r') rfl rfl rfl Iff.rfl
  | collected r res d hr ht =>
    subst ht
    exact hi.of_same (fun r' q' => State.setRq_rq_iff hr r') rfl rfl rfl Iff.rfl

theorem step (hi : LockInvariant s) (h : step s = .next t) : LockInvariant t :=
  (hi.of_lockFrame (.advance s)).lockStep (step_lockStep h)

end LockInvariant

/-! ### The issue order (R226, log entry 17) -/

namespace WaitersListed

theorem of_same (hw : WaitersListed s)
    (hrq : ∀ (r : Requester) q, t.rq[r]? = some (.waiting q) ↔ s.rq[r]? = some (.waiting q))
    (hq : t.waitQ = s.waitQ) : WaitersListed t := by
  simpa only [WaitersListed, hrq, hq] using hw

theorem of_lockFrame (hw : WaitersListed s) (h : s.LockFrame t) : WaitersListed t :=
  hw.of_same (fun _ _ => by rw [h.rq]) h.waitQ

theorem granted (hw : WaitersListed s) {r : Requester} {q : Request} (hr : s.rq[r]? = some (.waiting q)) :
    WaitersListed (s.granted r q) := by
  obtain ⟨hnodup, hmem⟩ := hw
  refine ⟨hnodup.erase r, fun r' => ?_⟩
  have herase : r' ∈ (s.granted r q).waitQ ↔ r' ≠ r ∧ r' ∈ s.waitQ := hnodup.mem_erase_iff
  rw [herase]
  by_cases hne : r' = r
  · subst hne
    refine iff_of_false (fun h => h.1 rfl) fun ⟨q', h⟩ => ?_
    cases (State.setRq_rq_self hr).symm.trans h
  · have hrq : (s.granted r q).rq[r']? = s.rq[r']? := State.setRq_rq_ne hne _
    rw [hrq, and_iff_right hne, hmem]

theorem issued (hw : WaitersListed s) {r : Requester} (hr : s.rq[r]? = some .quiet) (q : Request)
    (call : Option Helper) : WaitersListed (s.issued r q call) := by
  obtain ⟨hnodup, hmem⟩ := hw
  have hnew : r ∉ s.waitQ := fun h => by
    obtain ⟨q', h⟩ := (hmem r).1 h
    cases hr.symm.trans h
  have hlist : (s.issued r q call).waitQ = s.waitQ.concat r := List.concat_eq_append.symm
  rw [WaitersListed, hlist]
  refine ⟨hnodup.concat hnew, fun r' => ?_⟩
  rw [List.concat_eq_append, List.mem_append, List.mem_singleton]
  by_cases hne : r' = r
  · subst hne
    exact iff_of_true (.inr rfl) ⟨q, State.setRq_rq_self hr⟩
  · have hrq : (s.issued r q call).rq[r']? = s.rq[r']? := State.setRq_rq_ne hne _
    rw [hrq, or_iff_left hne, hmem]

theorem lockStep {m : Move} (hi : LockInvariant s) (hw : WaitersListed s) (h : s.LockStep m t) : WaitersListed t := by
  cases h with
  | framed h => exact hw.of_lockFrame h
  | granted r q hm hr hl hp ht => exact ht ▸ hw.granted hr
  | released r res hm hp ho ht =>
    obtain ⟨q, hq⟩ := hi.active_of_owner (fun hidle => by rw [hidle] at hp; cases hp) ho
    subst ht
    exact hw.of_same (fun r' q' => State.setRq_rq_iff hq r') rfl
  | issued r q call hr ht => exact ht ▸ hw.issued hr q call
  | collected r res d hr ht =>
    subst ht
    exact hw.of_same (fun r' q' => State.setRq_rq_iff hr r') rfl

end WaitersListed

/-! ### The requests outstanding (R223, R229) -/

/-- A waiting requester waits on, or is the one granted. -/
theorem State.LockStep.waiting {m : Move} {r : Requester} {q : Request} (hi : LockInvariant s) (h : s.LockStep m t)
    (hr : s.rq[r]? = some (.waiting q)) :
    t.rq[r]? = some (.waiting q) ∨ (t.rq[r]? = some (.active q) ∧ m = .grant r) := by
  cases h with
  | framed h => exact .inl (h.rq ▸ hr)
  | granted r' q' hm hr' hl hp ht =>
    subst ht
    by_cases hne : r = r'
    · subst hne
      cases hr.symm.trans hr'
      exact .inr ⟨State.setRq_rq_self hr, hm⟩
    · exact .inl ((State.setRq_rq_ne hne _).trans hr)
  | released r' res hm hp ho ht =>
    obtain ⟨q', hq'⟩ := hi.active_of_owner (fun hidle => by rw [hidle] at hp; cases hp) ho
    subst ht
    exact .inl ((State.setRq_rq_iff hq' r).2 hr)
  | issued r' q' call hr' ht =>
    subst ht
    by_cases hne : r = r'
    · subst hne
      cases hr.symm.trans hr'
    · exact .inl ((State.setRq_rq_ne hne _).trans hr)
  | collected r' res d hr' ht =>
    subst ht
    exact .inl ((State.setRq_rq_iff hr' r).2 hr)

/-- An active requester stays active, or is the one released. -/
theorem State.LockStep.active {m : Move} {r : Requester} {q : Request} (h : s.LockStep m t)
    (hr : s.rq[r]? = some (.active q)) :
    t.rq[r]? = some (.active q) ∨ ((∃ res, t.rq[r]? = some (.returned res)) ∧ m = .release) := by
  cases h with
  | framed h => exact .inl (h.rq ▸ hr)
  | granted r' q' hm hr' hl hp ht =>
    subst ht
    by_cases hne : r = r'
    · subst hne
      cases hr.symm.trans hr'
    · exact .inl ((State.setRq_rq_ne hne _).trans hr)
  | released r' res hm hp ho ht =>
    subst ht
    by_cases hne : r = r'
    · subst hne
      exact .inr ⟨⟨res, State.setRq_rq_self hr⟩, hm⟩
    · exact .inl ((State.setRq_rq_ne hne _).trans hr)
  | issued r' q' call hr' ht =>
    subst ht
    exact .inl ((State.setRq_rq_iff hr' r).2 hr)
  | collected r' res d hr' ht =>
    subst ht
    exact .inl ((State.setRq_rq_iff hr' r).2 hr)

end

/-- Settles O41: of what a step can do to the lock (`step_lockStep`), a grant makes a requester active where none is, a
release leaves none, and nothing else touches who is active. -/
theorem lockInvariantKept : Obligations.LockInvariantKept :=
  fun _ _ hi h => hi.step h

/-- Settles O42: a grant takes off the issue order the requester that waits no more, an issue puts on it one that did
not wait, and nothing else touches who waits. -/
theorem waitersStayListed : Obligations.WaitersStayListed :=
  fun s _ hi hw h => .lockStep (hi.of_lockFrame (.advance s)) (hw.of_lockFrame (.advance s)) (step_lockStep h)

/-- Settles O39: `State.LockStep.waiting` and `State.LockStep.active`. -/
theorem requestsAreNotCancelled : Obligations.RequestsAreNotCancelled := by
  intro s t r q hi h
  rw [← s.advance_rq]
  have hstep := step_lockStep h
  exact ⟨hstep.waiting (hi.of_lockFrame (.advance s)), hstep.active⟩

end Sys2Proof.Machine
end

section
/-! PROOFS. The run invariant under the steps of the block's own agents other than the engine (00_scope.md R4,
70_reset_and_hazards.md R274, 44_bus_lock.md R220): what the wire agent and the requesters leave of it, and what a grant
and a release make of it. -/

namespace Sys2Proof.Machine

/-! ### A state that meets the run invariant, from what its phase asks -/

/-- What the run invariant asks in every phase, and every step keeps for its own reasons. -/
structure Grounded (s : State) : Prop where
  mapped : s.mapped = true
  noFault : s.faults = []
  fifos : FifoInvariant s
  lock : LockInvariant s

/-- The clauses that ask nothing of the phase reached need no argument. -/
theorem Grounded.runInvariant {t : State} (hg : Grounded t)
    (idleBeforeInit : t.initialized = false → SerialIdle t)
    (cnt : t.phase.pollBound t.params = none → t.cnt = 0 := by exact nofun)
    (polls : ∀ bound, t.phase.pollBound t.params = some bound → t.cnt ≤ bound := by exact fun _ => nofun)
    (enabledAfterInit : t.initialized = true → t.phase.reprogramming = false →
      t.regs.enable.getLsbD 0 = true ∧ t.regs.con.getLsbD 0 = true := by exact fun _ => nofun)
    (disabledWhileProgramming : t.phase.reprogramming = true → t.regs.enable.getLsbD 0 = false := by exact nofun)
    (masterWhenProgrammed : t.phase = .cfgMask ∨ t.phase = .cfgEnable → t.regs.con.getLsbD 0 = true := by exact nofun)
    (quietBus : t.phase = .cfgDisable ∨ t.phase = .addressSet →
      t.txFifo = [] ∧ t.wire.inflight = none ∧ t.wire.busBusy = false := by exact nofun)
    (configures : t.phase.configuring = true →
      (∃ f, t.req = some (.init f) ∨ t.req = some (.setSpeed f)) ∧ t.ncfg ≠ none := by exact nofun)
    (waitsForBus : t.phase = .busWait → t.initialized = true ∧
      ((∃ f, t.req = some (.setSpeed f) ∧ t.ncfg ≠ none) ∨
        ∃ a ten w n, t.req = some (.execute a ten w n) ∧ w.length + n ≥ 1) := by exact nofun)
    (transfers : t.phase.transferring = true → t.initialized = true ∧ ∃ a ten w n, t.req = some (.execute a ten w n) ∧
      (t.phase.writing = true → t.idx < w.length) ∧ (t.phase.reading = true → t.idx < n) ∧
      (t.phase = .addressSet → w.length + n ≥ 1) := by exact nofun)
    (roomToPush : t.phase = .wrPush ∨ t.phase = .rdPush → t.txFifo.length < t.params.txDepth := by exact nofun)
    (byteToPop : t.phase = .rdPop → t.rxFifo ≠ [] := by exact nofun)
    (resultWhenDone : t.result.isSome = t.phase.terminal := by rfl) : RunInvariant t where
  mapped := hg.mapped
  noFault := hg.noFault
  disabledIsIdle := hg.fifos.disabledIsIdle
  fifosFit := hg.fifos.fifosFit
  idleBeforeInit := idleBeforeInit
  enabledAfterInit := enabledAfterInit
  disabledWhileProgramming := disabledWhileProgramming
  masterWhenProgrammed := masterWhenProgrammed
  quietBus := quietBus
  serves := ⟨fun h => (configures h).1, fun h => (configures h).2, waitsForBus, transfers⟩
  roomToPush := roomToPush
  byteToPop := byteToPop
  pollsCounted := by
    split
    next bound hb => exact polls bound hb
    next hb => exact cnt hb
  resultWhenDone := resultWhenDone
  lock := hg.lock

section

variable {s t : State}

theorem RunInvariant.fifos (hr : RunInvariant s) : FifoInvariant s :=
  ⟨hr.disabledIsIdle, hr.fifosFit⟩

theorem RunInvariant.cnt_zero (hr : RunInvariant s) (h : s.phase.pollBound s.params = none) : s.cnt = 0 := by
  have hcnt := hr.pollsCounted
  rwa [h] at hcnt

theorem RunInvariant.cnt_le (hr : RunInvariant s) {bound : Nat} (h : s.phase.pollBound s.params = some bound) :
    s.cnt ≤ bound := by
  have hcnt := hr.pollsCounted
  rwa [h] at hcnt

/-! ### The steps that leave the engine as it is -/

/-- The engine's registers, the storage registers and the mapping are in `t` as in `s`; queued tokens may have been
taken and bytes received, but nothing happens on an idle bus (R163 to R169). -/
structure State.EngineFrame (s t : State) : Prop where
  params : t.params = s.params := by rfl
  mapped : t.mapped = s.mapped := by rfl
  faults : t.faults = s.faults := by rfl
  phase : t.phase = s.phase := by rfl
  req : t.req = s.req := by rfl
  ncfg : t.ncfg = s.ncfg := by rfl
  initialized : t.initialized = s.initialized := by rfl
  idx : t.idx = s.idx := by rfl
  cnt : t.cnt = s.cnt := by rfl
  result : t.result = s.result := by rfl
  regs : t.regs = s.regs := by rfl
  txFifo : t.txFifo.length ≤ s.txFifo.length := by exact Nat.le_refl _
  rxFifo : s.rxFifo ≠ [] → t.rxFifo ≠ [] := by exact id
  idle : s.activity = false → s.SameSerial t := by exact fun _ => {}

theorem State.EngineFrame.advance (s : State) : s.EngineFrame s.advance where
  params := s.advance_params
  mapped := s.advance_mapped
  faults := s.advance_faults
  phase := s.advance_phase
  req := s.advance_req
  ncfg := s.advance_ncfg
  initialized := s.advance_initialized
  idx := s.advance_idx
  cnt := s.advance_cnt
  result := s.advance_result
  regs := s.advance_regs
  txFifo := by rw [s.advance_txFifo]
  rxFifo := by rw [s.advance_rxFifo]; exact id
  idle _ := .advance s

/-- A step of an active wire agent, where it takes tokens from the TX FIFO and may add a byte to the RX FIFO. -/
theorem State.EngineFrame.of_active (ha : s.activity ≠ false) (htx : t.txFifo.length ≤ s.txFifo.length)
    (hrx : s.rxFifo ≠ [] → t.rxFifo ≠ []) (h : t = { s with
      txFifo := t.txFifo, rxFifo := t.rxFifo, wire := t.wire, hist := t.hist }) : s.EngineFrame t := by
  rw [h]
  exact { txFifo := htx, rxFifo := hrx, idle := fun hidle => absurd hidle ha }

/-- The invariant of a state whose engine is as in one that meets it. -/
theorem RunInvariant.of_engineFrame (hr : RunInvariant s) (h : s.EngineFrame t) (hf : FifoInvariant t)
    (hl : LockInvariant t) : RunInvariant t where
  mapped := h.mapped.trans hr.mapped
  noFault := h.faults.trans hr.noFault
  disabledIsIdle := hf.disabledIsIdle
  fifosFit := hf.fifosFit
  idleBeforeInit hi := by
    obtain ⟨htx, hrx, hw⟩ := hr.idleBeforeInit (h.initialized ▸ hi)
    have hsame := h.idle ((activity_eq_false s).2 ⟨htx, hw⟩)
    exact ⟨hsame.txFifo.trans htx, hsame.rxFifo.trans hrx, hsame.wire ▸ hw⟩
  enabledAfterInit := by simpa only [h.initialized, h.phase, h.regs] using hr.enabledAfterInit
  disabledWhileProgramming := by simpa only [h.phase, h.regs] using hr.disabledWhileProgramming
  masterWhenProgrammed := by simpa only [h.phase, h.regs] using hr.masterWhenProgrammed
  quietBus hp := by
    have hquiet := hr.quietBus (h.phase ▸ hp)
    have hsame := h.idle ((activity_eq_false s).2 hquiet)
    rwa [hsame.txFifo, hsame.wire]
  serves := by simpa only [ServesItsPhase, h.phase, h.req, h.ncfg, h.initialized, h.idx] using hr.serves
  roomToPush hp := h.params ▸ h.txFifo.trans_lt (hr.roomToPush (h.phase ▸ hp))
  byteToPop hp := h.rxFifo (hr.byteToPop (h.phase ▸ hp))
  pollsCounted := by
    rw [h.phase, h.params, h.cnt]
    exact hr.pollsCounted
  resultWhenDone := by
    rw [h.result, h.phase]
    exact hr.resultWhenDone
  lock := hl

theorem RunInvariant.advance (hr : RunInvariant s) : RunInvariant s.advance :=
  hr.of_engineFrame (.advance s) (hr.fifos.of_sameSerial (.advance s)) (hr.lock.of_lockFrame (.advance s))

/-- Choosing the next move is no part of the invariant. -/
theorem RunInvariant.offer (hr : RunInvariant s) (m : Move) : RunInvariant (s.offer m) :=
  hr.of_engineFrame {} (hr.fifos.of_sameSerial {}) (hr.lock.of_lockFrame {})

theorem token_engineFrame {tok : Token} (hi : s.wire.inflight = some tok) (h : exec tok.instr s = .next t) :
    s.EngineFrame t := by
  have ha : s.activity ≠ false := fun ha => by
    obtain ⟨-, hnone, -⟩ := (activity_eq_false s).1 ha
    cases hi.symm.trans hnone
  obtain ⟨cmd, dat⟩ := tok
  cases cmd with
  | false =>
    obtain rfl | ⟨-, rfl⟩ := execWtok_next_cases h
    · exact {}
    · exact .of_active ha (Nat.le_refl _) id rfl
  | true =>
    obtain rfl | ⟨-, rfl⟩ := execRtok_next_cases h
    · exact {}
    · exact .of_active ha (Nat.le_refl _) (fun _ => List.append_ne_nil_of_right_ne_nil _ (List.cons_ne_nil _ _)) rfl

theorem wireTake_engineFrame (h : wireTake s = .next t) : s.EngineFrame t := by
  obtain rfl | ⟨tok, rest, htx, -, -, rfl⟩ := wireTake_next_cases h
  · exact {}
  · refine .of_active (fun ha => ?_) (htx ▸ Nat.le_succ _) id rfl
    cases htx.symm.trans ((activity_eq_false s).1 ha).1

theorem wireEnd_engineFrame (h : wireEnd s = .next t) : s.EngineFrame t := by
  obtain rfl | ⟨hg, rfl⟩ := wireEnd_next_cases h
  · exact {}
  · obtain ⟨-, hb, -, -⟩ := wireEnd_guard_iff.1 hg
    refine .of_active (fun ha => ?_) (Nat.le_refl _) id rfl
    obtain ⟨-, -, hfree⟩ := (activity_eq_false s).1 ha
    cases hb.symm.trans hfree

theorem wireAbort_engineFrame (h : wireAbort s.params.mayAbort s = .next t) : s.EngineFrame t := by
  obtain rfl | ⟨hg, rfl⟩ := wireAbort_next_cases h
  · exact {}
  · obtain ⟨-, -, hq⟩ := wireAbort_guard_iff.1 hg
    refine .of_active (fun ha => ?_) (Nat.zero_le _) id rfl
    obtain ⟨htx, hi, -⟩ := (activity_eq_false s).1 ha
    exact hq.elim (· hi) (· htx)

/-- All that a step of the block's own agents whose move is `m` can be: one that leaves the engine as it is, the
engine's step for the request served, a grant or a release. -/
inductive State.OwnStep (m : Move) (s t : State) : Prop
  | framed (h : s.EngineFrame t)
  | served (q : Request) (hm : m = .engine) (hq : s.req = some q) (h : exec q.instr s = .next t)
  | granted (r : Requester) (q : Request) (hm : m = .grant r) (hp : s.phase = .idle) (ht : t = s.granted r q)
  | released (r : Requester) (res : Result) (hp : s.phase.terminal = true) (ht : t = s.released r res)

theorem runMove_ownStep {m : Move} (ho : m.own = true) (h : runMove m s = .next t) : s.OwnStep m t := by
  cases m with
  | access a => cases ho
  | engine | wComplete => exact .framed (hold_next.1 (whenRunning_next.1 h).2 ▸ {})
  | wTake => exact .framed (wireTake_engineFrame h)
  | wEnd => exact .framed (wireEnd_engineFrame h)
  | wAbort => exact .framed (wireAbort_engineFrame h)
  | grant r =>
    obtain rfl | ⟨q, -, -, hp, -, rfl⟩ := grant_next_cases h
    · exact .framed {}
    · exact .granted r q rfl hp rfl
  | release =>
    obtain rfl | ⟨r, res, hp, -, -, rfl⟩ := release_next_cases h
    · exact .framed {}
    · exact .released r res hp rfl
  | issue r rec => obtain rfl | ⟨q, -, -, rfl⟩ := issueRecord_next_cases h <;> exact .framed {}
  | collect r => obtain rfl | ⟨res, -, rfl⟩ := collect_next_cases h <;> exact .framed {}
  | helper r addr hp =>
    obtain rfl | ⟨-, ⟨q, -, rfl⟩ | ⟨res, -, rfl⟩⟩ := callHelper_next_cases h <;> exact .framed {}

/-- A step of the block's own agents does what `State.OwnStep` says to the state in which its move has been chosen. -/
theorem step_ownStep (ho : s.nextMove.own = true) (h : step s = .next t) : s.advance.OwnStep s.nextMove t := by
  cases hm : s.nextMove with
  | access a => rw [hm] at ho; cases ho
  | engine =>
    obtain ⟨-, rfl⟩ | ⟨q, hq, h⟩ := step_engine hm h
    · exact .framed {}
    · exact .served q rfl (s.advance_req.trans hq) h
  | wComplete =>
    obtain ⟨-, rfl⟩ | ⟨tok, htok, h⟩ := step_wComplete hm h
    · exact .framed {}
    · exact .framed (token_engineFrame (s.advance_wire ▸ htok) h)
  | _ => exact runMove_ownStep (hm ▸ ho) (hm ▸ step_other (by simp only [fetch, hm]) h)

/-! ### The step -/

theorem RunInvariant.granted (hr : RunInvariant s) {r : Requester} {q : Request} (hp : s.phase = .idle)
    (hl : LockInvariant (s.granted r q)) : RunInvariant (s.granted r q) := by
  have hcnt := hr.cnt_zero (by rw [hp]; rfl)
  have hon := fun hi => hr.enabledAfterInit hi (by rw [hp]; rfl)
  have hres : s.result.isSome = false := by rw [hr.resultWhenDone, hp]; rfl
  exact Grounded.runInvariant ⟨hr.mapped, hr.noFault, hr.fifos.of_sameSerial {}, hl⟩ hr.idleBeforeInit
    (cnt := fun _ => hcnt) (enabledAfterInit := fun hi _ => hon hi) (resultWhenDone := hres)

theorem RunInvariant.released (hr : RunInvariant s) {r : Requester} {res : Result} (hp : s.phase.terminal = true)
    (hl : LockInvariant (s.released r res)) : RunInvariant (s.released r res) :=
  Grounded.runInvariant ⟨hr.mapped, hr.noFault, hr.fifos.of_sameSerial {}, hl⟩ hr.idleBeforeInit (cnt := fun _ => rfl)
    (enabledAfterInit := fun hi _ => hr.enabledAfterInit hi (Phase.outside_of_terminal hp))

end

end Sys2Proof.Machine
end

section
/-! PROOFS. The engine's steps under the run invariant (43_transfer_engine.md R180 to R195, 41_timing_config.md R145 to
R155, 44_bus_lock.md R228): in every phase of a request being served the engine's step completes without a fault, keeps
the invariant and uses up at least one of the steps left. -/

namespace Sys2Proof.Machine

/-! ### The steps left, by phase (R228) -/

/-- The most engine steps that the writing of `k` bytes takes: each a wait and a push. -/
def writeSteps (p : Params) (k : Nat) : Nat :=
  k * (p.nFifo + 2)

/-- The most engine steps that the reading of `k` bytes takes: each a wait, a push, a wait and a pop. -/
def readSteps (p : Params) (k : Nat) : Nat :=
  k * (2 * p.nFifo + 4)

theorem writeSteps_of_pos (p : Params) {k : Nat} (hk : 0 < k) :
    writeSteps p k = (p.nFifo + 2) + writeSteps p (k - 1) := by
  obtain ⟨k, rfl⟩ := Nat.exists_eq_add_one.2 hk
  rw [writeSteps, Nat.succ_mul, Nat.add_comm]
  rfl

theorem readSteps_of_pos (p : Params) {k : Nat} (hk : 0 < k) :
    readSteps p k = (2 * p.nFifo + 4) + readSteps p (k - 1) := by
  obtain ⟨k, rfl⟩ := Nat.exists_eq_add_one.2 hk
  rw [readSteps, Nat.succ_mul, Nat.add_comm]
  rfl

theorem stepsLeft_of_terminal {s : State} (hp : s.phase.terminal = true) : stepsLeft s = 0 := by
  obtain hp | hp | hp := Phase.terminal_iff.1 hp <;> simp only [stepsLeft, hp]

/-- Only these five fields count. -/
theorem stepsLeft_congr {s t : State} (hpar : t.params = s.params := by rfl) (hp : t.phase = s.phase := by rfl)
    (hq : t.req = s.req := by rfl) (hc : t.cnt = s.cnt := by rfl) (hi : t.idx = s.idx := by rfl) :
    stepsLeft t = stepsLeft s := by
  simp only [stepsLeft, hpar, hp, hq, hc, hi]

theorem stepsLeft_validate_init {s : State} {f : Nat} (hp : s.phase = .validate) (hq : s.req = some (.init f)) :
    stepsLeft s = 1 + 8 := by
  simp only [stepsLeft, hp, hq]

theorem stepsLeft_validate_setSpeed {s : State} {f : Nat} (hp : s.phase = .validate)
    (hq : s.req = some (.setSpeed f)) : stepsLeft s = 1 + (s.params.nBus + 1) + 8 := by
  simp only [stepsLeft, hp, hq]

theorem stepsLeft_busWait_setSpeed {s : State} {f : Nat} (hp : s.phase = .busWait) (hq : s.req = some (.setSpeed f)) :
    stepsLeft s = (s.params.nBus + 1 - s.cnt) + 8 := by
  simp only [stepsLeft, hp, hq]

theorem stepsLeft_cfgDisable {s : State} (hp : s.phase = .cfgDisable) : stepsLeft s = 8 := by
  simp only [stepsLeft, hp]

section

variable {s : State} {a n : Nat} {ten : Bool} {w : List Byte}

theorem stepsLeft_validate_execute (hp : s.phase = .validate) (hq : s.req = some (.execute a ten w n)) :
    stepsLeft s = 1 + (s.params.nBus + 1) + 1 + writeSteps s.params w.length + readSteps s.params n := by
  simp only [stepsLeft, hp, hq, writeSteps, readSteps]

theorem stepsLeft_busWait_execute (hp : s.phase = .busWait) (hq : s.req = some (.execute a ten w n)) :
    stepsLeft s =
      (s.params.nBus + 1 - s.cnt) + 1 + writeSteps s.params w.length + readSteps s.params n := by
  simp only [stepsLeft, hp, hq, writeSteps, readSteps]

theorem stepsLeft_addressSet (hp : s.phase = .addressSet) (hq : s.req = some (.execute a ten w n)) :
    stepsLeft s = 1 + writeSteps s.params w.length + readSteps s.params n := by
  simp only [stepsLeft, hp, hq, writeSteps, readSteps]

theorem stepsLeft_wrPoll (hp : s.phase = .wrPoll) (hq : s.req = some (.execute a ten w n)) :
    stepsLeft s = (s.params.nFifo + 1 - s.cnt) + 1 + writeSteps s.params (w.length - s.idx - 1) +
      readSteps s.params n := by
  simp only [stepsLeft, hp, hq, writeSteps, readSteps]

theorem stepsLeft_wrPush (hp : s.phase = .wrPush) (hq : s.req = some (.execute a ten w n)) :
    stepsLeft s = 1 + writeSteps s.params (w.length - s.idx - 1) + readSteps s.params n := by
  simp only [stepsLeft, hp, hq, writeSteps, readSteps]

theorem stepsLeft_rdPollTx (hp : s.phase = .rdPollTx) (hq : s.req = some (.execute a ten w n)) :
    stepsLeft s = (s.params.nFifo + 1 - s.cnt) + 1 + (s.params.nFifo + 1) + 1 +
      readSteps s.params (n - s.idx - 1) := by
  simp only [stepsLeft, hp, hq, readSteps]

theorem stepsLeft_rdPush (hp : s.phase = .rdPush) (hq : s.req = some (.execute a ten w n)) :
    stepsLeft s = 1 + (s.params.nFifo + 1) + 1 + readSteps s.params (n - s.idx - 1) := by
  simp only [stepsLeft, hp, hq, readSteps]

theorem stepsLeft_rdPollRx (hp : s.phase = .rdPollRx) (hq : s.req = some (.execute a ten w n)) :
    stepsLeft s = (s.params.nFifo + 1 - s.cnt) + 1 + readSteps s.params (n - s.idx - 1) := by
  simp only [stepsLeft, hp, hq, readSteps]

theorem stepsLeft_rdPop (hp : s.phase = .rdPop) (hq : s.req = some (.execute a ten w n)) :
    stepsLeft s = 1 + readSteps s.params (n - s.idx - 1) := by
  simp only [stepsLeft, hp, hq, readSteps]

end

/-! ### A step that keeps the invariant and uses up a step -/

/-- The engine's step for the request `q` completes, keeps the run invariant and uses up at least one of the steps
left. -/
def Progresses (q : Request) (s : State) : Prop :=
  ∃ t, exec q.instr s = .next t ∧ RunInvariant t ∧ stepsLeft t < stepsLeft s

theorem Phase.of_transferring {p : Phase} (h : p.transferring = true) : p.reprogramming = false ∧
    p.configuring = false ∧ p ≠ .busWait ∧ ¬(p = .cfgMask ∨ p = .cfgEnable) ∧ p.terminal = false := by
  cases p with
  | addressSet | wrPoll | wrPush | rdPollTx | rdPush | rdPollRx | rdPop => exact ⟨rfl, rfl, nofun, nofun, rfl⟩
  | _ => cases h

theorem Phase.of_reprogramming {p : Phase} (h : p.reprogramming = true) :
    p.configuring = true ∧ p.terminal = false ∧ ∀ par, p.pollBound par = none := by
  cases p with
  | cfgSsHcnt | cfgSsLcnt | cfgFsHcnt | cfgFsLcnt | cfgCon | cfgMask | cfgEnable => exact ⟨rfl, rfl, fun _ => rfl⟩
  | _ => cases h

theorem Phase.of_pollBound {p : Phase} {par : Params} {bound : Nat} (h : p.pollBound par = some bound) :
    p ≠ .idle ∧ p.terminal = false ∧ p.reprogramming = false := by
  cases p with
  | busWait | wrPoll | rdPollTx | rdPollRx => exact ⟨nofun, rfl, rfl⟩
  | _ => cases h

/-- Every terminal phase asks the same; nothing else is asked of one. -/
theorem Grounded.ended {t : State} (hg : Grounded t) (hp : t.phase.terminal = true)
    (hidle : t.initialized = false → SerialIdle t)
    (hon : t.initialized = true → t.regs.enable.getLsbD 0 = true ∧ t.regs.con.getLsbD 0 = true) (hcnt : t.cnt = 0)
    (hres : t.result.isSome = true) : RunInvariant t := by
  refine hg.runInvariant hidle (fun _ => hcnt) ?_ (fun hi _ => hon hi) ?_ ?_ ?_ ?_ ?_ ?_ ?_ ?_ (hres.trans hp.symm) <;>
    obtain hp | hp | hp := Phase.terminal_iff.1 hp <;> rw [hp] <;> exact nofun

/-- In every phase of a transfer the request served is an EXECUTE, in an initialized controller; a phase that pushes or
pops asks for room or for a byte. -/
theorem Grounded.transferring {t : State} {a n : Nat} {ten : Bool} {w : List Byte} (hg : Grounded t)
    (hi : t.initialized = true) (hon : t.regs.enable.getLsbD 0 = true ∧ t.regs.con.getLsbD 0 = true)
    (hcnt : t.cnt = 0) (hres : t.result.isSome = false) (hq : t.req = some (.execute a ten w n))
    (hwrite : t.phase.writing = true → t.idx < w.length := by exact nofun)
    (hread : t.phase.reading = true → t.idx < n := by exact nofun)
    (hlen : t.phase = .addressSet → w.length + n ≥ 1 := by exact nofun)
    (hquiet : t.phase = .cfgDisable ∨ t.phase = .addressSet →
      t.txFifo = [] ∧ t.wire.inflight = none ∧ t.wire.busBusy = false := by exact nofun)
    (hroom : t.phase = .wrPush ∨ t.phase = .rdPush → t.txFifo.length < t.params.txDepth := by exact nofun)
    (hbyte : t.phase = .rdPop → t.rxFifo ≠ [] := by exact nofun)
    (htr : t.phase.transferring = true := by rfl) : RunInvariant t := by
  obtain ⟨hrep, hconf, hbus, hmaster, hterm⟩ := Phase.of_transferring htr
  exact hg.runInvariant (fun h => absurd (hi.symm.trans h) nofun) (cnt := fun _ => hcnt)
    (polls := fun bound _ => hcnt ▸ Nat.zero_le bound) (enabledAfterInit := fun _ _ => hon)
    (disabledWhileProgramming := fun h => absurd (hrep.symm.trans h) nofun)
    (masterWhenProgrammed := fun h => absurd h hmaster) (quietBus := hquiet)
    (configures := fun h => absurd (hconf.symm.trans h) nofun) (waitsForBus := fun h => absurd h hbus)
    (transfers := fun _ => ⟨hi, a, ten, w, n, hq, hwrite, hread, hlen⟩) (roomToPush := hroom) (byteToPop := hbyte)
    (resultWhenDone := hres.trans hterm.symm)

section

variable {s t : State} {q : Request}

/-- The state reached is grounded by what every instruction keeps. -/
theorem RunInvariant.progresses (hr : RunInvariant s) (h : exec q.instr s = .next t)
    (hinv : Grounded t → RunInvariant t) (hleft : stepsLeft t < stepsLeft s) (hf : t.faults = s.faults := by rfl) :
    Progresses q s := by
  have hg : Grounded t := {
    mapped := (exec_retained h).mapped.trans hr.mapped
    noFault := hf.trans hr.noFault
    fifos := hr.fifos.serialStep (exec_serialStep h)
    lock := hr.lock.of_lockFrame (exec_lockFrame h) }
  exact ⟨t, h, hinv hg, hleft⟩

theorem RunInvariant.no_result (hr : RunInvariant s) (hp : s.phase.terminal = false) : s.result.isSome = false :=
  hr.resultWhenDone.trans hp

/-! ### The validations (R145, R155, R183) -/

theorem RunInvariant.progresses_of_abort (hr : RunInvariant s) (hp : s.phase = .validate) (hq : s.req = some q)
    (h : exec q.instr s = .next t) (hcnt : t.cnt = 0) (hsame : s.SameSerial t := by exact {})
    (hi : t.initialized = s.initialized := by rfl) (ha : t.phase = .abort := by rfl)
    (hres : t.result.isSome = true := by rfl) (hf : t.faults = s.faults := by rfl) : Progresses q s := by
  refine hr.progresses h (fun hg => hg.ended (ha ▸ rfl) (fun hi' => ?_) (fun hi' => ?_) hcnt hres) ?_ hf
  · obtain ⟨htx, hrx, hw⟩ := hr.idleBeforeInit (hi ▸ hi')
    exact ⟨hsame.txFifo.trans htx, hsame.rxFifo.trans hrx, hsame.wire ▸ hw⟩
  · rw [hsame.regs]
    exact hr.enabledAfterInit (hi ▸ hi') (hp ▸ rfl)
  · rw [stepsLeft_of_terminal (ha ▸ rfl)]
    cases q with
    | init f => rw [stepsLeft_validate_init hp hq]; omega
    | setSpeed f => rw [stepsLeft_validate_setSpeed hp hq]; omega
    | execute a ten w n => rw [stepsLeft_validate_execute hp hq]; omega

theorem RunInvariant.progresses_validate_init {f : Nat} (hr : RunInvariant s) (hp : s.phase = .validate)
    (hq : s.req = some (.init f)) : Progresses (.init f) s := by
  obtain ⟨halready, hbad, hok⟩ := initValidation f s hr.noFault hp hq
  have hcnt := hr.cnt_zero (hp ▸ rfl)
  cases hi : s.initialized with
  | true => exact hr.progresses_of_abort hp hq (halready hi) hcnt
  | false =>
    cases hf : freqOk s.params f with
    | false => exact hr.progresses_of_abort hp hq (hbad hi hf) hcnt
    | true =>
      obtain ⟨htx, -, hw⟩ := hr.idleBeforeInit hi
      refine hr.progresses (hok hi hf) (fun hg => hg.runInvariant hr.idleBeforeInit (cnt := fun _ => hcnt)
        (enabledAfterInit := fun hi' _ => absurd (hi.symm.trans hi') nofun) (quietBus := fun _ => ⟨htx, hw⟩)
        (configures := fun _ => ⟨⟨f, .inl hq⟩, nofun⟩) (resultWhenDone := hr.no_result (hp ▸ rfl))) ?_
      rw [stepsLeft_cfgDisable rfl, stepsLeft_validate_init hp hq]
      omega

theorem RunInvariant.progresses_validate_setSpeed {f : Nat} (hr : RunInvariant s) (hp : s.phase = .validate)
    (hq : s.req = some (.setSpeed f)) : Progresses (.setSpeed f) s := by
  obtain ⟨hearly, hbad, hok⟩ := setSpeedValidation f s hr.noFault hp hq
  have hcnt := hr.cnt_zero (hp ▸ rfl)
  cases hi : s.initialized with
  | false => exact hr.progresses_of_abort hp hq (hearly hi) hcnt
  | true =>
    cases hf : freqOk s.params f with
    | false => exact hr.progresses_of_abort hp hq (hbad hi hf) hcnt
    | true =>
      refine hr.progresses (hok hi hf) (fun hg => hg.runInvariant hr.idleBeforeInit
        (polls := fun bound _ => Nat.zero_le bound) (enabledAfterInit := fun _ _ => hr.enabledAfterInit hi (hp ▸ rfl))
        (waitsForBus := fun _ => ⟨hi, .inl ⟨f, hq, nofun⟩⟩) (resultWhenDone := hr.no_result (hp ▸ rfl))) ?_
      refine lt_of_eq_of_lt (stepsLeft_busWait_setSpeed rfl hq) ?_
      dsimp only
      rw [stepsLeft_validate_setSpeed hp hq]
      omega

theorem RunInvariant.progresses_validate_execute {a n : Nat} {ten : Bool} {w : List Byte} (hr : RunInvariant s)
    (hp : s.phase = .validate) (hq : s.req = some (.execute a ten w n)) : Progresses (.execute a ten w n) s := by
  obtain ⟨hearly, hbad, hok⟩ := executeValidation a ten w n s hr.noFault hp hq
  cases hi : s.initialized with
  | false => exact hr.progresses_of_abort hp hq (hearly hi) rfl
  | true =>
    by_cases hfields : w.length + n = 0 ∨ (ten = false ∧ a > 0x7F) ∨ (ten = true ∧ a > 0x3FF) ∨
        ∃ m, s.params.maxLen = some m ∧ (w.length > m ∨ n > m)
    · exact hr.progresses_of_abort hp hq (hbad hi hfields) rfl
    · have hlen : w.length + n ≥ 1 := Nat.one_le_iff_ne_zero.2 fun h => hfields (.inl h)
      refine hr.progresses (hok hi hfields) (fun hg => hg.runInvariant hr.idleBeforeInit
        (polls := fun bound _ => Nat.zero_le bound) (enabledAfterInit := fun _ _ => hr.enabledAfterInit hi (hp ▸ rfl))
        (waitsForBus := fun _ => ⟨hi, .inr ⟨a, ten, w, n, hq, hlen⟩⟩) (resultWhenDone := hr.no_result (hp ▸ rfl))) ?_
      refine lt_of_eq_of_lt (stepsLeft_busWait_execute rfl hq) ?_
      dsimp only
      rw [stepsLeft_validate_execute hp hq]
      omega

/-! ### The waits (R181, R184, R186, R188, R190) -/

/-- What a poll step leaves that goes on in phase `p` with `c` failed polls, where `v` is the value read. -/
def State.polled (s : State) (v : Word) (c : Nat) (p : Phase) : State :=
  { s with rdata := v, drawCount := s.drawCount + 1, hist := s.hist ++ [.regRead 0x70 v], cnt := c, phase := p }

/-- In `s` the request `q` waits for `holds`, with the bound on failed polls given, and then goes on in phase `next`. -/
inductive Waits (s : State) : Request → Nat → Wait → Prop → Phase → Prop
  | reconfigure {f : Nat} (hp : s.phase = .busWait) (hn : s.ncfg ≠ none) :
      Waits s (.setSpeed f) s.params.nBus .bus
        (s.txFifo = [] ∧ s.wire.inflight = none ∧ s.wire.busBusy = false) .cfgDisable
  | transfer {a : Nat} {ten : Bool} {w : List Byte} {n : Nat} (hp : s.phase = .busWait) (hlen : w.length + n ≥ 1) :
      Waits s (.execute a ten w n) s.params.nBus .bus
        (s.txFifo = [] ∧ s.wire.inflight = none ∧ s.wire.busBusy = false) .addressSet
  | write {a : Nat} {ten : Bool} {w : List Byte} {n : Nat} (hp : s.phase = .wrPoll) (hi : s.idx < w.length) :
      Waits s (.execute a ten w n) s.params.nFifo .tx (s.txFifo.length < s.params.txDepth) .wrPush
  | readToken {a : Nat} {ten : Bool} {w : List Byte} {n : Nat} (hp : s.phase = .rdPollTx) (hi : s.idx < n) :
      Waits s (.execute a ten w n) s.params.nFifo .tx (s.txFifo.length < s.params.txDepth) .rdPush
  | readByte {a : Nat} {ten : Bool} {w : List Byte} {n : Nat} (hp : s.phase = .rdPollRx) (hi : s.idx < n) :
      Waits s (.execute a ten w n) s.params.nFifo .rx (s.rxFifo ≠ []) .rdPop

/-- What the run invariant says of a transfer, about the request served. -/
theorem RunInvariant.transfer_of_phase {p : Phase} (hr : RunInvariant s) (hq : s.req = some q) (hp : s.phase = p)
    (htr : p.transferring = true := by rfl) : s.initialized = true ∧ ∃ a ten w n, q = .execute a ten w n ∧
      (p.writing = true → s.idx < w.length) ∧ (p.reading = true → s.idx < n) ∧
      (p = .addressSet → w.length + n ≥ 1) := by
  subst hp
  obtain ⟨-, -, -, htransfer⟩ := hr.serves
  obtain ⟨hi, a, ten, w, n, hq', h⟩ := htransfer htr
  exact ⟨hi, a, ten, w, n, Option.some.inj (hq.symm.trans hq'), h⟩

/-- In a phase that polls, the request waits, in an initialized controller. -/
theorem RunInvariant.waits {bound : Nat} (hr : RunInvariant s) (hq : s.req = some q)
    (hb : s.phase.pollBound s.params = some bound) :
    s.initialized = true ∧ ∃ k holds next, Waits s q bound k holds next := by
  cases hp : s.phase with rw [hp] at hb
  | busWait =>
    cases hb
    obtain ⟨-, -, hwait, -⟩ := hr.serves
    obtain ⟨hi, ⟨f, hq', hn⟩ | ⟨a, ten, w, n, hq', hlen⟩⟩ := hwait hp <;> cases hq.symm.trans hq'
    · exact ⟨hi, _, _, _, .reconfigure hp hn⟩
    · exact ⟨hi, _, _, _, .transfer hp hlen⟩
  | wrPoll =>
    cases hb
    obtain ⟨hi, a, ten, w, n, rfl, hidx, -, -⟩ := hr.transfer_of_phase hq hp
    exact ⟨hi, _, _, _, .write hp (hidx rfl)⟩
  | rdPollTx =>
    cases hb
    obtain ⟨hi, a, ten, w, n, rfl, -, hidx, -⟩ := hr.transfer_of_phase hq hp
    exact ⟨hi, _, _, _, .readToken hp (hidx rfl)⟩
  | rdPollRx =>
    cases hb
    obtain ⟨hi, a, ten, w, n, rfl, -, hidx, -⟩ := hr.transfer_of_phase hq hp
    exact ⟨hi, _, _, _, .readByte hp (hidx rfl)⟩
  | _ => cases hb

namespace Waits

variable {bound : Nat} {k : Wait} {holds : Prop} {next : Phase}

/-- A wait is a poll of its condition. -/
theorem pollStep (hw : Waits s q bound k holds next) (hs : s.faults = []) (hm : s.mapped = true)
    (hq : s.req = some q) : PollStep q.instr s bound k holds next := by
  cases hw with
  | @reconfigure f hp => exact (pollLoops 0 false [] 0 f s hs hm).1 hq hp
  | @transfer a ten w n hp =>
    obtain ⟨-, hpoll⟩ := pollLoops a ten w n 0 s hs hm
    obtain ⟨hbus, -, -, -⟩ := hpoll hq
    exact hbus hp
  | @write a ten w n hp =>
    obtain ⟨-, hpoll⟩ := pollLoops a ten w n 0 s hs hm
    obtain ⟨-, hwrite, -, -⟩ := hpoll hq
    exact hwrite hp
  | @readToken a ten w n hp =>
    obtain ⟨-, hpoll⟩ := pollLoops a ten w n 0 s hs hm
    obtain ⟨-, -, htoken, -⟩ := hpoll hq
    exact htoken hp
  | @readByte a ten w n hp =>
    obtain ⟨-, hpoll⟩ := pollLoops a ten w n 0 s hs hm
    obtain ⟨-, -, -, hbyte⟩ := hpoll hq
    exact hbyte hp

/-- The steps left while the wait goes on: the polls that may still fail, one more, and those of the next phase. -/
theorem stepsLeft_eq (hw : Waits s q bound k holds next) (hq : s.req = some q) (c : Nat) (v v' : Word) :
    stepsLeft (s.polled v c s.phase) = (bound + 1 - c) + stepsLeft (s.polled v' 0 next) := by
  cases hw with
  | reconfigure hp => exact stepsLeft_busWait_setSpeed hp hq
  | transfer hp =>
    have hwait := stepsLeft_busWait_execute (s := s.polled v c s.phase) hp hq
    have hnext := stepsLeft_addressSet (s := s.polled v' 0 .addressSet) rfl hq
    rw [hwait, hnext]
    dsimp only [State.polled]
    omega
  | write hp =>
    have hwait := stepsLeft_wrPoll (s := s.polled v c s.phase) hp hq
    have hnext := stepsLeft_wrPush (s := s.polled v' 0 .wrPush) rfl hq
    rw [hwait, hnext]
    dsimp only [State.polled]
    omega
  | readToken hp =>
    have hwait := stepsLeft_rdPollTx (s := s.polled v c s.phase) hp hq
    have hnext := stepsLeft_rdPush (s := s.polled v' 0 .rdPush) rfl hq
    rw [hwait, hnext]
    dsimp only [State.polled]
    omega
  | readByte hp =>
    have hwait := stepsLeft_rdPollRx (s := s.polled v c s.phase) hp hq
    have hnext := stepsLeft_rdPop (s := s.polled v' 0 .rdPop) rfl hq
    rw [hwait, hnext]
    dsimp only [State.polled]
    omega

/-- The next phase asks for the condition that the poll has read. -/
theorem runInvariant_of_holds (hr : RunInvariant s) (hq : s.req = some q) (hi : s.initialized = true)
    (hres : s.result.isSome = false) (hon : s.regs.enable.getLsbD 0 = true ∧ s.regs.con.getLsbD 0 = true)
    (hw : Waits s q bound k holds next) (h : holds) (v : Word) (hg : Grounded (s.polled v 0 next)) :
    RunInvariant (s.polled v 0 next) := by
  cases hw with
  | @reconfigure f hp hn =>
    exact hg.runInvariant hr.idleBeforeInit (cnt := fun _ => rfl) (enabledAfterInit := fun _ _ => hon)
      (quietBus := fun _ => h) (configures := fun _ => ⟨⟨f, .inr hq⟩, hn⟩) (resultWhenDone := hres)
  | transfer hp hlen => exact hg.transferring hi hon rfl hres hq (hlen := fun _ => hlen) (hquiet := fun _ => h)
  | write hp hidx => exact hg.transferring hi hon rfl hres hq (hwrite := fun _ => hidx) (hroom := fun _ => h)
  | readToken hp hidx => exact hg.transferring hi hon rfl hres hq (hread := fun _ => hidx) (hroom := fun _ => h)
  | readByte hp hidx => exact hg.transferring hi hon rfl hres hq (hread := fun _ => hidx) (hbyte := fun _ => h)

/-- A poll whose condition holds ends the wait. -/
theorem exec_of_holds (hr : RunInvariant s) (hq : s.req = some q) (hw : Waits s q bound k holds next) (h : holds) :
    ∃ v, exec q.instr s = .next (s.polled v 0 next) := by
  obtain ⟨v, -, -, -, hgo, -, -⟩ := hw.pollStep hr.noFault hr.mapped hq
  exact ⟨v, hgo h⟩

/-- A poll whose condition fails counts, while the bound allows it. -/
theorem exec_of_failure (hr : RunInvariant s) (hq : s.req = some q) (hw : Waits s q bound k holds next)
    (h : ¬holds) (hlt : s.cnt < bound) : ∃ v, exec q.instr s = .next (s.polled v (s.cnt + 1) s.phase) := by
  obtain ⟨v, -, -, -, -, hcount, -⟩ := hw.pollStep hr.noFault hr.mapped hq
  exact ⟨v, hcount h hlt⟩

/-- A poll whose condition fails at the bound is a Timeout. -/
theorem exec_of_bound (hr : RunInvariant s) (hq : s.req = some q) (hw : Waits s q bound k holds next)
    (h : ¬holds) (hge : s.cnt ≥ bound) :
    ∃ v res, exec q.instr s = .next { s.polled v 0 .timeout with result := some res } := by
  obtain ⟨v, -, -, -, -, -, hout⟩ := hw.pollStep hr.noFault hr.mapped hq
  exact ⟨v, _, hout h hge⟩

end Waits

/-- A failed poll changes no field that the invariant speaks of but the count. -/
theorem RunInvariant.polled_self {bound c : Nat} (hr : RunInvariant s) (hb : s.phase.pollBound s.params = some bound)
    (hc : c ≤ bound) (v : Word) (hg : Grounded (s.polled v c s.phase)) : RunInvariant (s.polled v c s.phase) := by
  obtain ⟨hconf, hncfg, hwait, htransfer⟩ := hr.serves
  exact hg.runInvariant hr.idleBeforeInit (cnt := fun hn => by cases hb.symm.trans hn)
    (polls := fun b hb' => by cases hb.symm.trans hb'; exact hc) (enabledAfterInit := hr.enabledAfterInit)
    (disabledWhileProgramming := hr.disabledWhileProgramming) (masterWhenProgrammed := hr.masterWhenProgrammed)
    (quietBus := hr.quietBus) (configures := fun hp => ⟨hconf hp, hncfg hp⟩) (waitsForBus := hwait)
    (transfers := htransfer) (roomToPush := hr.roomToPush) (byteToPop := hr.byteToPop)
    (resultWhenDone := hr.resultWhenDone)

theorem RunInvariant.progresses_poll {bound : Nat} (hr : RunInvariant s) (hq : s.req = some q)
    (hb : s.phase.pollBound s.params = some bound) : Progresses q s := by
  obtain ⟨hi, k, holds, next, hw⟩ := hr.waits hq hb
  obtain ⟨-, hterm, hout⟩ := Phase.of_pollBound hb
  have hon := hr.enabledAfterInit hi hout
  have hcnt := hr.cnt_le hb
  have hleft := hw.stepsLeft_eq hq s.cnt s.rdata
  have hself : stepsLeft (s.polled s.rdata s.cnt s.phase) = stepsLeft s := stepsLeft_congr
  rw [hself] at hleft
  by_cases h : holds
  · obtain ⟨v, hexec⟩ := hw.exec_of_holds hr hq h
    refine hr.progresses hexec (hw.runInvariant_of_holds hr hq hi (hr.no_result hterm) hon h v) ?_
    rw [hleft v]
    omega
  · by_cases hlt : s.cnt < bound
    · obtain ⟨v, hexec⟩ := hw.exec_of_failure hr hq h hlt
      refine hr.progresses hexec (hr.polled_self hb hlt v) ?_
      rw [hleft v, hw.stepsLeft_eq hq (s.cnt + 1) v v]
      omega
    · obtain ⟨v, res, hexec⟩ := hw.exec_of_bound hr hq h (Nat.not_lt.1 hlt)
      refine hr.progresses hexec (fun hg => hg.ended rfl hr.idleBeforeInit (fun _ => hon) rfl rfl) ?_
      rw [stepsLeft_of_terminal rfl, hleft v]
      omega

/-! ### The reconfiguration (R147 to R154) -/

theorem RunInvariant.servesConfig (hr : RunInvariant s) (hq : s.req = some q) (hp : s.phase.configuring = true) :
    servesConfig q.instr s ∧ ∃ c, s.ncfg = some c := by
  obtain ⟨hconf, hncfg, -, -⟩ := hr.serves
  refine ⟨?_, Option.ne_none_iff_exists'.1 (hncfg hp)⟩
  obtain ⟨f, hf | hf⟩ := hconf hp <;> cases hq.symm.trans hf
  · exact ⟨f, .inl ⟨rfl, hq⟩⟩
  · exact ⟨f, .inr ⟨rfl, hq⟩⟩

theorem RunInvariant.progresses_cfgDisable (hr : RunInvariant s) (hq : s.req = some q) (hp : s.phase = .cfgDisable) :
    Progresses q s := by
  obtain ⟨hserves, c, hc⟩ := hr.servesConfig hq (hp ▸ rfl)
  obtain ⟨htx, hin, hbusy⟩ := hr.quietBus (.inl hp)
  obtain ⟨hdisable, -⟩ := reconfigurationBrackets q.instr s hserves hr.noFault hr.mapped
  obtain ⟨hconf, hncfg, -, -⟩ := hr.serves
  have hoff : BitVec.getLsbD 0#32 0 = false := by decide
  refine hr.progresses (hdisable hp htx hin hbusy) (fun hg => hg.runInvariant (fun _ => ⟨rfl, rfl, hin, hbusy⟩)
    (cnt := fun _ => hr.cnt_zero (hp ▸ rfl)) (disabledWhileProgramming := fun _ => hoff)
    (configures := fun _ => ⟨hconf (hp ▸ rfl), hncfg (hp ▸ rfl)⟩) (resultWhenDone := hr.no_result (hp ▸ rfl))) ?_
  simp [stepsLeft, hp]

/-- A CFG step that writes a register other than ENABLE: the controller stays disabled, and so idle. -/
theorem RunInvariant.progresses_of_cfgWrite {g : Regs} {h : List Event} {next : Phase} (hr : RunInvariant s)
    (hp : s.phase.reprogramming = true)
    (hexec : exec q.instr s = .next { s with regs := g, hist := h, phase := next })
    (hg : g.enable = s.regs.enable) (hleft : stepsLeft { s with regs := g, hist := h, phase := next } < stepsLeft s)
    (hnext : next.reprogramming = true := by rfl)
    (hmaster : next = .cfgMask ∨ next = .cfgEnable → g.con.getLsbD 0 = true := by exact nofun) : Progresses q s := by
  have hoff := hr.disabledWhileProgramming hp
  obtain ⟨hconfiguring, hterm, hnone⟩ := Phase.of_reprogramming hp
  obtain ⟨hconf, hncfg, -, -⟩ := hr.serves
  refine hr.progresses hexec (fun hground => ?_) hleft
  cases next with
  | cfgSsHcnt | cfgSsLcnt | cfgFsHcnt | cfgFsLcnt | cfgCon | cfgMask | cfgEnable =>
    exact hground.runInvariant (fun _ => hr.disabledIsIdle hoff) (cnt := fun _ => hr.cnt_zero (hnone _))
      (disabledWhileProgramming := fun _ => hg ▸ hoff) (masterWhenProgrammed := hmaster)
      (configures := fun _ => ⟨hconf hconfiguring, hncfg hconfiguring⟩) (resultWhenDone := hr.no_result hterm)
  | _ => cases hnext

theorem RunInvariant.progresses_cfgWrite (hr : RunInvariant s) (hq : s.req = some q)
    (hp : s.phase.reprogramming = true) (he : s.phase ≠ .cfgEnable) : Progresses q s := by
  obtain ⟨hconfiguring, -, -⟩ := Phase.of_reprogramming hp
  obtain ⟨hserves, c, hc⟩ := hr.servesConfig hq hconfiguring
  have hoff := hr.disabledWhileProgramming hp
  obtain ⟨htx, -, hin, hbusy⟩ := hr.disabledIsIdle hoff
  obtain ⟨hssH, hssL, hfsH, hfsL, hcon, hmask⟩ :=
    reconfigurationWrites q.instr c s hserves hr.noFault hr.mapped hc hoff htx hin hbusy
  cases hph : s.phase with
  | cfgSsHcnt => exact hr.progresses_of_cfgWrite hp (hssH hph) rfl (by simp [stepsLeft, hph])
  | cfgSsLcnt => exact hr.progresses_of_cfgWrite hp (hssL hph) rfl (by simp [stepsLeft, hph])
  | cfgFsHcnt => exact hr.progresses_of_cfgWrite hp (hfsH hph) rfl (by simp [stepsLeft, hph])
  | cfgFsLcnt => exact hr.progresses_of_cfgWrite hp (hfsL hph) rfl (by simp [stepsLeft, hph])
  | cfgCon =>
    refine hr.progresses_of_cfgWrite hp (hcon hph) rfl (by simp [stepsLeft, hph]) (hmaster := fun _ => ?_)
    show BitVec.getLsbD (if c.speed = .standard then 0x63#32 else 0x65#32) 0 = true
    split <;> decide
  | cfgMask =>
    exact hr.progresses_of_cfgWrite hp (hmask hph) rfl (by simp [stepsLeft, hph])
      (hmaster := fun _ => hr.masterWhenProgrammed (.inl hph))
  | cfgEnable => exact absurd hph he
  | _ => rw [hph] at hp; cases hp

theorem RunInvariant.progresses_cfgEnable (hr : RunInvariant s) (hq : s.req = some q) (hp : s.phase = .cfgEnable) :
    Progresses q s := by
  obtain ⟨hserves, -⟩ := hr.servesConfig hq (hp ▸ rfl)
  obtain ⟨-, henable⟩ := reconfigurationBrackets q.instr s hserves hr.noFault hr.mapped
  have hon : BitVec.getLsbD 1#32 0 = true := by decide
  refine hr.progresses (henable hp) (fun hg => hg.ended rfl nofun (fun _ => ⟨hon, hr.masterWhenProgrammed (.inr hp)⟩)
    (hr.cnt_zero (hp ▸ rfl)) rfl) ?_
  simp [stepsLeft, hp]

/-! ### The transfer (R185 to R191) -/

/-- The TAR write on an idle bus, of any address. -/
theorem exec_execute_of_addressSet {a n : Nat} {ten : Bool} {w : List Byte} (hr : RunInvariant s)
    (hp : s.phase = .addressSet) (hq : s.req = some (.execute a ten w n)) :
    exec (.execute a ten w n) s = .next { s with
      regs := { s.regs with tar := tarValue a ten }, hist := s.hist ++ [.regWrite 0x04 (tarValue a ten)], idx := 0,
      phase := if w.length > 0 then .wrPoll else .rdPollTx } := by
  have hidle := (activity_eq_false s).2 (hr.quietBus (.inr hp))
  refine (whileServing_of_serving hr.noFault hq _).trans ?_
  simp only [hp]
  rw [engineWrite_storage hr.mapped (tarValue_checked a ten) (if_neg (Bool.eq_false_iff.1 hidle))]
  rfl

theorem RunInvariant.progresses_addressSet (hr : RunInvariant s) (hq : s.req = some q) (hp : s.phase = .addressSet) :
    Progresses q s := by
  obtain ⟨hi, a, ten, w, n, rfl, -, -, hlen⟩ := hr.transfer_of_phase hq hp
  have hlen := hlen rfl
  have hon := hr.enabledAfterInit hi (hp ▸ rfl)
  have hcnt := hr.cnt_zero (hp ▸ rfl)
  have hres := hr.no_result (hp ▸ rfl)
  have hexec := exec_execute_of_addressSet hr hp hq
  by_cases hw : w.length > 0
  · rw [if_pos hw] at hexec
    refine hr.progresses hexec (fun hg => hg.transferring hi hon hcnt hres hq (hwrite := fun _ => hw)) ?_
    refine lt_of_eq_of_lt (stepsLeft_wrPoll rfl hq) ?_
    dsimp only [Nat.sub_zero]
    rw [stepsLeft_addressSet hp hq, writeSteps_of_pos _ hw, hcnt]
    omega
  · rw [if_neg hw] at hexec
    have hn : 0 < n := by omega
    refine hr.progresses hexec (fun hg => hg.transferring hi hon hcnt hres hq (hread := fun _ => hn)) ?_
    refine lt_of_eq_of_lt (stepsLeft_rdPollTx rfl hq) ?_
    dsimp only [Nat.sub_zero]
    rw [stepsLeft_addressSet hp hq, readSteps_of_pos _ hn, hcnt]
    omega

theorem RunInvariant.progresses_wrPush (hr : RunInvariant s) (hq : s.req = some q) (hp : s.phase = .wrPush) :
    Progresses q s := by
  obtain ⟨hi, a, ten, w, n, rfl, hidx, -, -⟩ := hr.transfer_of_phase hq hp
  have hidx := hidx rfl
  have hon := hr.enabledAfterInit hi (hp ▸ rfl)
  have hcnt := hr.cnt_zero (hp ▸ rfl)
  have hres := hr.no_result (hp ▸ rfl)
  obtain ⟨hmore, hread, hdone⟩ := writeBytePush a ten w n _ s hr.noFault hr.mapped hp hq
    (List.getElem?_eq_getElem hidx) hon.1 (hr.roomToPush (.inl hp))
  by_cases hlt : s.idx + 1 < w.length
  · refine hr.progresses (hmore hlt) (fun hg => hg.transferring hi hon hcnt hres hq (hwrite := fun _ => hlt)) ?_
    refine lt_of_eq_of_lt (stepsLeft_wrPoll rfl hq) ?_
    dsimp only
    rw [stepsLeft_wrPush hp hq, writeSteps_of_pos _ (k := w.length - s.idx - 1) (by omega), hcnt,
      Nat.sub_add_eq]
    omega
  · have hlast : s.idx + 1 = w.length := by omega
    by_cases hn : n > 0
    · refine hr.progresses (hread hlast hn) (fun hg => hg.transferring hi hon hcnt hres hq (hread := fun _ => hn)) ?_
      refine lt_of_eq_of_lt (stepsLeft_rdPollTx rfl hq) ?_
      dsimp only [Nat.sub_zero]
      rw [stepsLeft_wrPush hp hq, readSteps_of_pos _ hn, hcnt]
      omega
    · refine hr.progresses (hdone hlast (Nat.eq_zero_of_not_pos hn)) (fun hg => hg.ended rfl
        (fun h => absurd (hi.symm.trans h) nofun) (fun _ => hon) hcnt rfl) ?_
      rw [stepsLeft_of_terminal rfl, stepsLeft_wrPush hp hq]
      omega

theorem RunInvariant.progresses_rdPush (hr : RunInvariant s) (hq : s.req = some q) (hp : s.phase = .rdPush) :
    Progresses q s := by
  obtain ⟨hi, a, ten, w, n, rfl, -, hidx, -⟩ := hr.transfer_of_phase hq hp
  have hon := hr.enabledAfterInit hi (hp ▸ rfl)
  have hcnt := hr.cnt_zero (hp ▸ rfl)
  have hres := hr.no_result (hp ▸ rfl)
  have hexec := readTokenPush a ten w n s hr.noFault hr.mapped hp hq hon.1 (hr.roomToPush (.inr hp))
  refine hr.progresses hexec (fun hg => hg.transferring hi hon hcnt hres hq (hread := fun _ => hidx rfl)) ?_
  refine lt_of_eq_of_lt (stepsLeft_rdPollRx rfl hq) ?_
  dsimp only
  rw [stepsLeft_rdPush hp hq, hcnt]
  omega

theorem RunInvariant.progresses_rdPop (hr : RunInvariant s) (hq : s.req = some q) (hp : s.phase = .rdPop) :
    Progresses q s := by
  obtain ⟨hi, a, ten, w, n, rfl, -, hidx, -⟩ := hr.transfer_of_phase hq hp
  have hidx := hidx rfl
  have hon := hr.enabledAfterInit hi (hp ▸ rfl)
  have hcnt := hr.cnt_zero (hp ▸ rfl)
  have hres := hr.no_result (hp ▸ rfl)
  obtain ⟨b, rest, hrx⟩ := List.exists_cons_of_ne_nil (hr.byteToPop hp)
  obtain ⟨v, -, hmore, hdone⟩ := readBytePop a ten w n b rest s hr.noFault hr.mapped hp hq hon.1 hrx
  by_cases hlt : s.idx + 1 < n
  · refine hr.progresses (hmore hlt) (fun hg => hg.transferring hi hon hcnt hres hq (hread := fun _ => hlt)) ?_
    refine lt_of_eq_of_lt (stepsLeft_rdPollTx rfl hq) ?_
    dsimp only
    rw [stepsLeft_rdPop hp hq, readSteps_of_pos _ (k := n - s.idx - 1) (by omega), hcnt,
      Nat.sub_add_eq]
    omega
  · refine hr.progresses (hdone (Nat.not_lt.1 hlt)) (fun hg => hg.ended rfl
      (fun h => absurd (hi.symm.trans h) nofun) (fun _ => hon) hcnt rfl) ?_
    rw [stepsLeft_of_terminal rfl, stepsLeft_rdPop hp hq]
    omega

/-! ### The engine's step and the step of the block's own agents -/

theorem RunInvariant.progresses_of_serving (hr : RunInvariant s) (hq : s.req = some q) (hidle : s.phase ≠ .idle)
    (hterm : s.phase.terminal = false) : Progresses q s := by
  cases hp : s.phase with
  | idle => exact absurd hp hidle
  | validate =>
    cases q with
    | init f => exact hr.progresses_validate_init hp hq
    | setSpeed f => exact hr.progresses_validate_setSpeed hp hq
    | execute a ten w n => exact hr.progresses_validate_execute hp hq
  | busWait => exact hr.progresses_poll (bound := s.params.nBus) hq (hp ▸ rfl)
  | wrPoll | rdPollTx | rdPollRx => exact hr.progresses_poll (bound := s.params.nFifo) hq (hp ▸ rfl)
  | addressSet => exact hr.progresses_addressSet hq hp
  | wrPush => exact hr.progresses_wrPush hq hp
  | rdPush => exact hr.progresses_rdPush hq hp
  | rdPop => exact hr.progresses_rdPop hq hp
  | cfgDisable => exact hr.progresses_cfgDisable hq hp
  | cfgSsHcnt | cfgSsLcnt | cfgFsHcnt | cfgFsLcnt | cfgCon | cfgMask =>
    exact hr.progresses_cfgWrite hq (hp ▸ rfl) (by rw [hp]; exact nofun)
  | cfgEnable => exact hr.progresses_cfgEnable hq hp
  | done | timeout | abort => rw [hp] at hterm; cases hterm

/-- Every step of the block's own agents keeps the run invariant (R274). -/
theorem RunInvariant.of_step (hr : RunInvariant s) (ho : s.nextMove.own = true) (h : step s = .next t) :
    RunInvariant t := by
  have hadv := hr.advance
  have hl := hr.lock.step h
  cases step_ownStep ho h with
  | framed hframe => exact hadv.of_engineFrame hframe (hadv.fifos.serialStep (step_serialStep h)) hl
  | served q hm hq hexec =>
    by_cases hrest : s.advance.phase = .idle ∨ s.advance.phase.terminal = true
    · rw [Phase.terminal_iff] at hrest
      cases hexec.symm.trans (exec_request_of_resting hadv.noFault hq hrest)
      exact hadv
    · obtain ⟨hidle, hterm⟩ := not_or.1 hrest
      obtain ⟨t', ht', hinv, -⟩ := hadv.progresses_of_serving hq hidle (Bool.not_eq_true _ ▸ hterm)
      cases hexec.symm.trans ht'
      exact hinv
  | granted r q hm hp ht => subst ht; exact hadv.granted hp hl
  | released r res hp ht => subst ht; exact hadv.released hp hl

end

end Sys2Proof.Machine
end

section
/-! PROOFS. How long a request takes (44_bus_lock.md R228, 43_transfer_engine.md R181): under the run invariant the
steps left shrink with every step of the engine and with no other, so a request served ends, and a wait that is in vain
ends in a Timeout. -/

namespace Sys2Proof.Machine

section

variable {s t : State}

/-! ### The steps left under each move -/

/-- A serving engine has a request, and its step progresses. -/
theorem RunInvariant.exists_progress (hr : RunInvariant s) (hidle : s.phase ≠ .idle)
    (hterm : s.phase.terminal = false) : ∃ q, s.req = some q ∧ Progresses q s := by
  obtain ⟨-, q, -, -, hq⟩ := hr.lock.active_of_serving hidle
  exact ⟨q, hq, hr.progresses_of_serving hq hidle hterm⟩

theorem RunInvariant.exists_waits {bound : Nat} (hr : RunInvariant s)
    (hb : s.phase.pollBound s.params = some bound) :
    ∃ q k holds next, s.req = some q ∧ Waits s q bound k holds next := by
  obtain ⟨hidle, -, -⟩ := Phase.of_pollBound hb
  obtain ⟨-, q, -, -, hq⟩ := hr.lock.active_of_serving hidle
  obtain ⟨-, k, holds, next, hw⟩ := hr.waits hq hb
  exact ⟨q, k, holds, next, hq, hw⟩

theorem step_of_engine {q : Request} (hs : s.faults = []) (hm : s.nextMove = .engine) (hq : s.req = some q) :
    step s = exec q.instr s.advance :=
  step_of_decode_ok hs (by rw [fetch_of_engine hm, hq]; rfl) (decode_record q)

theorem stepsLeft_advance (s : State) : stepsLeft s.advance = stepsLeft s :=
  stepsLeft_congr s.advance_params s.advance_phase s.advance_req s.advance_cnt s.advance_idx

theorem RunInvariant.engine_step (hr : RunInvariant s) (hm : s.nextMove = .engine) (hidle : s.phase ≠ .idle)
    (hterm : s.phase.terminal = false) : ∃ t, step s = .next t ∧ stepsLeft t < stepsLeft s := by
  rw [← s.advance_phase] at hidle hterm
  obtain ⟨q, hq, t, ht, -, hlt⟩ := hr.advance.exists_progress hidle hterm
  rw [stepsLeft_advance] at hlt
  exact ⟨t, (step_of_engine hr.noFault hm (s.advance_req ▸ hq)).trans ht, hlt⟩

/-- A move of another agent, other than a grant by an idle engine, leaves the steps left as they are. -/
theorem stepsLeft_of_not_engine (ho : s.nextMove.own = true) (he : s.nextMove ≠ .engine)
    (hg : s.phase ≠ .idle ∨ ∀ r, s.nextMove ≠ .grant r) (h : step s = .next t) : stepsLeft t = stepsLeft s := by
  rw [← stepsLeft_advance s]
  cases step_ownStep ho h with
  | framed hframe => exact stepsLeft_congr hframe.params hframe.phase hframe.req hframe.cnt hframe.idx
  | served q hm hq hexec => exact absurd hm he
  | granted r q hm hp ht =>
    rw [s.advance_phase] at hp
    exact (hg.elim (· hp) (· r hm)).elim
  | released r res hp ht =>
    subst ht
    rw [stepsLeft_of_terminal hp]
    rfl

/-- A move of another agent, while a request is served, leaves the phase as it is. -/
theorem phase_of_not_engine (ho : s.nextMove.own = true) (he : s.nextMove ≠ .engine) (hidle : s.phase ≠ .idle)
    (hterm : s.phase.terminal = false) (h : step s = .next t) : t.phase = s.phase := by
  cases step_ownStep ho h with
  | framed hframe => exact hframe.phase.trans s.advance_phase
  | served q hm hq hexec => exact absurd hm he
  | granted r q hm hp ht => exact absurd (s.advance_phase ▸ hp) hidle
  | released r res hp ht =>
    rw [s.advance_phase, hterm] at hp
    cases hp

/-- The bound M of R228. -/
def Request.stepBound (p : Params) : Request → Nat
  | .init _ => 1 + 8
  | .setSpeed _ => 1 + (p.nBus + 1) + 8
  | .execute _ _ w n => 1 + (p.nBus + 1) + 1 + writeSteps p w.length + readSteps p n

theorem stepsLeft_granted (s : State) (r : Requester) (q : Request) :
    stepsLeft (s.granted r q) = q.stepBound s.params := by
  cases q with
  | init f => exact stepsLeft_validate_init rfl rfl
  | setSpeed f => exact stepsLeft_validate_setSpeed rfl rfl
  | execute a ten w n => exact stepsLeft_validate_execute rfl rfl

theorem step_of_grant {r : Requester} {q : Request} (hm : s.nextMove = .grant r) (hr : s.rq[r]? = some (.waiting q))
    (hl : s.lockOwner = none) (hp : s.phase = .idle) (horder : s.params.lockOrder = .fifo → s.waitQ.head? = some r)
    (h : step s = .next t) : t = s.advance.granted r q := by
  have hmove := step_other (by simp only [fetch, hm]) h
  obtain ⟨hs, -⟩ := step_next_cases h
  rw [hm, runMove, s.advance_params] at hmove
  refine Host.Outcome.next.inj (hmove.symm.trans (grant_of_enabled (s.advance_faults.trans hs) ?_ ?_ ?_ ?_))
  · rwa [s.advance_rq]
  · rwa [s.advance_lockOwner]
  · rwa [s.advance_phase]
  · rwa [mayGrant_iff, s.advance_waitQ]

/-! ### Runs -/

/-- A run with as many engine moves as there are steps left passes through a terminal phase: by induction on the moves,
each of which uses up a step left or leaves them and the phase as they are. -/
theorem RunInvariant.exists_terminal {ms : List Move} (hr : RunInvariant s) (hidle : s.phase ≠ .idle)
    (hown : ∀ m ∈ ms, m.own = true) (h : runMoves ms s = .next t) (hleft : stepsLeft s ≤ ms.count .engine) :
    ∃ (before after : List Move) (u : State), ms = before ++ after ∧ runMoves before s = .next u ∧
      u.phase.terminal = true := by
  induction ms generalizing s with
  | nil =>
    refine ⟨[], [], s, rfl, rfl, ?_⟩
    by_contra hterm
    obtain ⟨-, -, u, -, -, hlt⟩ := hr.exists_progress hidle (Bool.eq_false_iff.2 hterm)
    exact Nat.not_lt_zero _ (hlt.trans_le hleft)
  | cons m ms ih =>
    cases hterm : s.phase.terminal with
    | true => exact ⟨[], m :: ms, s, rfl, rfl, hterm⟩
    | false =>
      obtain ⟨u, hu, hrest⟩ := runMoves_cons.1 h
      have ho := hown m List.mem_cons_self
      have hu' := (hr.offer m).of_step ho hu
      have hnext : u.phase ≠ .idle ∧ stepsLeft u ≤ ms.count .engine := by
        by_cases hm : m = .engine
        · subst hm
          obtain ⟨q, hq, u', hexec, hr', hlt⟩ := hr.exists_progress hidle hterm
          cases hu.symm.trans ((step_offer_engine hr.noFault hq).trans hexec)
          rw [List.count_cons_self] at hleft
          exact ⟨(exec_lockFrame hexec).idle.not.2 hidle, Nat.le_of_lt_succ (hlt.trans_le hleft)⟩
        · rw [List.count_cons_of_ne hm] at hleft
          have hphase : u.phase = s.phase := phase_of_not_engine (s := s.offer m) ho hm hidle hterm hu
          have hsteps : stepsLeft u = stepsLeft s := stepsLeft_of_not_engine (s := s.offer m) ho hm (.inl hidle) hu
          exact ⟨hphase ▸ hidle, hsteps ▸ hleft⟩
      obtain ⟨before, after, v, rfl, hv, hend⟩ :=
        ih hu' hnext.1 (fun m' hm' => hown m' (List.mem_cons_of_mem m hm')) hrest hnext.2
      exact ⟨m :: before, after, v, rfl, runMoves_cons.2 ⟨u, hu, hv⟩, hend⟩

/-- The condition that the phase waits for does not hold (R184, R186, R188, R190). -/
def WaitsInVain (s : State) : Prop :=
  (s.phase = .busWait → s.activity = true) ∧ (s.phase = .wrPoll ∨ s.phase = .rdPollTx → s.tfnf = false) ∧
    (s.phase = .rdPollRx → s.rfne = false)

theorem Waits.not_holds {q : Request} {bound : Nat} {k : Wait} {holds : Prop} {next : Phase}
    (hw : Waits s q bound k holds next) (hv : WaitsInVain s) : ¬holds := by
  obtain ⟨hbus, hroom, hbyte⟩ := hv
  cases hw with
  | reconfigure hp | transfer hp =>
    rw [← activity_eq_false, hbus hp]
    exact Bool.noConfusion
  | write hp =>
    rw [← tfnf_eq_true, hroom (.inl hp)]
    exact Bool.noConfusion
  | readToken hp =>
    rw [← tfnf_eq_true, hroom (.inr hp)]
    exact Bool.noConfusion
  | readByte hp =>
    rw [← List.length_pos_iff, ← gt_iff_lt, ← rfne_eq_true, hbyte hp]
    exact Bool.noConfusion

/-- The engine's poll of a wait in vain, where the bound allows one more failure. -/
theorem RunInvariant.step_of_vain_poll {bound : Nat} (hr : RunInvariant s)
    (hb : s.phase.pollBound s.params = some bound) (hv : WaitsInVain s) (hlt : s.cnt < bound) :
    ∃ v, step (s.offer .engine) = .next (s.polled v (s.cnt + 1) s.phase) := by
  obtain ⟨q, k, holds, next, hq, hw⟩ := hr.exists_waits hb
  rw [step_offer_engine hr.noFault hq]
  exact hw.exec_of_failure hr hq (hw.not_holds hv) hlt

theorem RunInvariant.step_of_last_vain_poll {bound : Nat} (hr : RunInvariant s)
    (hb : s.phase.pollBound s.params = some bound) (hv : WaitsInVain s) (hge : s.cnt ≥ bound) :
    ∃ t, step (s.offer .engine) = .next t ∧ t.phase = .timeout := by
  obtain ⟨q, k, holds, next, hq, hw⟩ := hr.exists_waits hb
  rw [step_offer_engine hr.noFault hq]
  obtain ⟨v, res, hexec⟩ := hw.exec_of_bound hr hq (hw.not_holds hv) hge
  exact ⟨_, hexec, rfl⟩

/-- While only the engine moves, a wait in vain counts up to its bound and then times out: by induction on the polls
that may still fail, none of which changes what the wait is for. -/
theorem RunInvariant.timesOut {bound : Nat} (hr : RunInvariant s) (hb : s.phase.pollBound s.params = some bound)
    (hv : WaitsInVain s) :
    ∃ t, runMoves (List.replicate (bound - s.cnt + 1) .engine) s = .next t ∧ t.phase = .timeout := by
  induction hn : bound - s.cnt generalizing s with
  | zero =>
    obtain ⟨t, hstep, ht⟩ := hr.step_of_last_vain_poll hb hv (Nat.le_of_sub_eq_zero hn)
    exact ⟨t, runMoves_cons.2 ⟨t, hstep, runMoves_nil t⟩, ht⟩
  | succ n ih =>
    obtain ⟨v, hstep⟩ := hr.step_of_vain_poll hb hv (by omega)
    have hr' := (hr.offer .engine).of_step rfl hstep
    have hn' : bound - (s.cnt + 1) = n := by omega
    obtain ⟨t, hrun, ht⟩ := ih hr' hb hv hn'
    exact ⟨t, runMoves_cons.2 ⟨_, hstep, hrun⟩, ht⟩

end

/-- Settles O49: the engine's step progresses (`RunInvariant.engine_step`), another agent's changes no count of the steps
left (`stepsLeft_of_not_engine`), and a grant sets it to the bound (`stepsLeft_granted`); the two claims about runs follow
by induction (`RunInvariant.exists_terminal`, `RunInvariant.timesOut`). -/
theorem requestsEndWithinTheirBound : Obligations.RequestsEndWithinTheirBound := by
  refine ⟨fun s hr hm hidle hterm => hr.engine_step hm hidle hterm,
    fun s t _ ho he hg h => stepsLeft_of_not_engine ho he hg h, fun s t r q hm hr hl hp horder h => ?_,
    fun s t ms hr hidle hown h hleft => hr.exists_terminal hidle hown h hleft,
    fun s bound hr hb hbus hroom hbyte => hr.timesOut hb ⟨hbus, hroom, hbyte⟩⟩
  rw [step_of_grant hm hr hl hp horder h, stepsLeft_granted, s.advance_params]
  cases q <;> rfl

end Sys2Proof.Machine
end

section
/-! PROOFS. The session helpers (45_peripheral_session.md R230 to R233, R93): the EXECUTE that each call issues, and the
calls that return an error at once. -/

namespace Sys2Proof.Machine

section

variable {s : State} {r : Requester} {addr : BitVec 7} {h : Helper}

theorem step_of_helper {rest : List Move} (hs : s.faults = []) (hsched : s.sched = .helper r addr h :: rest) :
    step s = callHelper r addr h { s with sched := rest } :=
  step_of_sched_other hs hsched (by simp only [fetch, State.nextMove_of_sched hsched])

/-- A quiet requester's call issues the expansion and notes the helper (R230 to R233). -/
theorem callHelper_of_ok {q : Request} (hs : s.faults = []) (hr : s.rq[r]? = some .quiet)
    (hq : expandHelper addr h = .ok q) : callHelper r addr h s = .next (s.issued r q (some h)) := by
  rw [callHelper, whenRunning_of_unfaulted hs, hq]
  exact issue_of_quiet hs hr

/-- A quiet requester's call with no expansion returns its error and issues nothing (R232, R233). -/
theorem callHelper_of_error {res : Result} (hs : s.faults = []) (hr : s.rq[r]? = some .quiet)
    (hq : expandHelper addr h = .error res) :
    callHelper r addr h s = .next { s with delivered := some (r, .result res) } := by
  rw [callHelper, whenRunning_of_unfaulted hs, hq]
  simp only [State.rqOf, hr]

end

/-- Settles O40: each of the six calls by its expansion, one EXECUTE or an error. -/
theorem sessionHelperCalls : Obligations.SessionHelperCalls := by
  intro r addr reg val d ds n s rest hs hr issues refuses
  have hissues {h : Helper} {w : List Byte} {k : Nat}
      (hq : expandHelper addr h = .ok (.execute addr.toNat false w k)) : issues h w k := fun hsched =>
    (step_of_helper hs hsched).trans (callHelper_of_ok (s := { s with sched := rest }) hs hr hq)
  have hrefuses {h : Helper} (hq : expandHelper addr h = .error (.err .invalidArgument none)) : refuses h :=
    fun hsched => (step_of_helper hs hsched).trans (callHelper_of_error (s := { s with sched := rest }) hs hr hq)
  exact ⟨hissues rfl, hissues rfl, hissues rfl, hissues rfl, hrefuses rfl, hrefuses rfl⟩

end Sys2Proof.Machine
end

section
/-! PROOFS. The fake peripheral (95_test_vectors.md section 0.3): what the events of a bus transaction do to its memory
and its index, which stores they make, and the block it gives back (45_peripheral_session.md R238). -/

namespace Sys2Proof.Machine

/-- The peripheral's address that an event of the wire names. -/
def Event.address : Event → Option (BitVec 10)
  | .wStart a | .wTx a _ | .wRx a _ => some a
  | .regRead _ _ | .regWrite _ _ | .grant _ _ | .release _ _ | .wStop | .wAbort | .flush => none

/-- The fake peripheral at `A` after the events, from `p`. -/
def Fake.through (A : BitVec 10) (p : Fake) (es : List Event) : Fake :=
  es.foldl (Fake.on A) p

section

variable {A : BitVec 10} {p : Fake}

theorem Fake.after_append (m0 : Byte → Byte) (h es : List Event) :
    Fake.after A m0 (h ++ es) = (Fake.after A m0 h).through A es :=
  List.foldl_append

theorem Fake.through_append (es fs : List Event) : p.through A (es ++ fs) = (p.through A es).through A fs :=
  List.foldl_append

theorem Fake.through_concat (es : List Event) (e : Event) : p.through A (es ++ [e]) = (p.through A es).on A e :=
  p.through_append es [e]

/-- The fake peripheral sees only the events that name its address. -/
theorem Fake.on_other {e : Event} (he : e.address ≠ some A) : p.on A e = p := by
  cases e with
  | wStart a | wTx a b | wRx a b => exact if_neg fun ha => he (congrArg some ha)
  | _ => rfl

theorem Fake.through_other {es : List Event} (hes : ∀ e ∈ es, e.address ≠ some A) : p.through A es = p := by
  induction es with
  | nil => rfl
  | cons e es ih =>
    refine (congrArg (Fake.through A · es) (on_other (hes e List.mem_cons_self))).trans ?_
    exact ih fun e' he' => hes e' (List.mem_cons_of_mem e he')

/-- The first byte of a bus transaction is the index. -/
theorem Fake.through_index (reg : Byte) :
    p.through A [.wStart A, .wTx A reg] = { p with ptr := reg, fresh := false } := by
  simp [through, Fake.on]

/-- A further byte written is stored at the index, which goes on by one. -/
theorem Fake.on_store (hf : p.fresh = false) (b : Byte) :
    p.on A (.wTx A b) = { p with mem := fun i => if i = p.ptr then b else p.mem i, ptr := p.ptr + 1 } := by
  simp [Fake.on, hf]

/-- Bytes written after the index leave it behind the last of them. -/
theorem Fake.through_writes (hf : p.fresh = false) (bs : List Byte) :
    (p.through A (bs.map (.wTx A))).fresh = false ∧
      (p.through A (bs.map (.wTx A))).ptr = p.ptr + BitVec.ofNat 8 bs.length := by
  induction bs using List.reverseRecOn with
  | nil => exact ⟨hf, (BitVec.add_zero _).symm⟩
  | append_singleton bs b ih =>
    obtain ⟨hfresh, hptr⟩ := ih
    rw [List.map_append, List.map_singleton, through_concat, on_store hfresh]
    refine ⟨hfresh, ?_⟩
    rw [hptr, List.length_append, List.length_singleton, BitVec.ofNat_add, ← BitVec.add_assoc]
    rfl

/-- Different offsets of a block of at most 256 bytes are different indices. -/
theorem add_ofNat_ne {j k : Nat} (i : Byte) (hjk : j < k) (hk : k < 256) :
    i + BitVec.ofNat 8 j ≠ i + BitVec.ofNat 8 k := by
  intro h
  have hnat := congrArg BitVec.toNat (BitVec.add_right_inj i |>.1 h)
  simp only [BitVec.toNat_ofNat] at hnat
  omega

/-- The bytes written after the index stand from it on, as long as the block does not meet itself. -/
theorem Fake.mem_through_writes (hf : p.fresh = false) {bs : List Byte} (hlen : bs.length ≤ 256) {k : Nat}
    (hk : k < bs.length) : (p.through A (bs.map (.wTx A))).mem (p.ptr + BitVec.ofNat 8 k) = bs[k] := by
  induction bs using List.reverseRecOn with
  | nil => cases hk
  | append_singleton bs b ih =>
    obtain ⟨hfresh, hptr⟩ := through_writes (A := A) hf bs
    rw [List.length_append, List.length_singleton] at hlen hk
    simp only [List.map_append, List.map_singleton, through_concat, on_store hfresh, hptr]
    by_cases hlast : k < bs.length
    · rw [if_neg (add_ofNat_ne p.ptr hlast hlen), List.getElem_append_left hlast]
      exact ih (Nat.le_of_succ_le hlen) hlast
    · obtain rfl : k = bs.length := by omega
      rw [if_pos rfl, List.getElem_concat_length rfl]

/-- Reads move the index only. -/
theorem Fake.through_reads (bs : List Byte) :
    (p.through A (bs.map (.wRx A))).mem = p.mem ∧
      (p.through A (bs.map (.wRx A))).ptr = p.ptr + BitVec.ofNat 8 bs.length := by
  induction bs using List.reverseRecOn with
  | nil => exact ⟨rfl, (BitVec.add_zero _).symm⟩
  | append_singleton bs b ih =>
    obtain ⟨hmem, hptr⟩ := ih
    rw [List.map_append, List.map_singleton, through_concat]
    simp only [Fake.on, if_true, hmem, hptr, true_and]
    rw [List.length_append, List.length_singleton, BitVec.ofNat_add, ← BitVec.add_assoc]
    rfl

end

/-- Settles O55: the block's bytes stand from the index on (`Fake.mem_through_writes`), what comes between does not touch
them, and the new index and the `k` reads leave the index at the `k`-th. -/
theorem fakePeripheralRoundTrip : Obligations.FakePeripheralRoundTrip := by
  intro A m0 h between reg bs k hbetween hlen hk
  have hother : ∀ e ∈ .wStop :: between, e.address ≠ some A := by
    intro e he ha
    obtain rfl | he := List.mem_cons.1 he
    · cases ha
    · cases e with
      | wStart a => cases ha; exact (hbetween _ he 0#8).1 rfl
      | wTx a b => cases ha; exact (hbetween _ he b).2.1 rfl
      | wRx a b => cases ha; exact (hbetween _ he b).2.2 rfl
      | _ => cases ha
  rw [fakePeriph, if_pos ⟨rfl, rfl⟩]
  simp only [List.append_assoc, List.singleton_append, Fake.after_append]
  generalize Fake.after A m0 h = p
  rw [Fake.through_append, Fake.through_index, Fake.through_append, Fake.through_append (.wStop :: between),
    Fake.through_other hother, Fake.through_append, Fake.through_index]
  obtain ⟨hmem, hptr⟩ := Fake.through_reads (A := A) (bs := bs.take k)
    (p := { Fake.through A { p with ptr := reg, fresh := false } (bs.map (.wTx A)) with ptr := reg, fresh := false })
  rw [hmem, hptr, List.length_take_of_le hk.le]
  exact Fake.mem_through_writes (p := { p with ptr := reg, fresh := false }) rfl hlen hk

end Sys2Proof.Machine
end

section
/-! PROOFS. The history since the last TAR write (43_transfer_engine.md R184, R202), and what the fake peripheral
(95_test_vectors.md section 0.3) makes of the events of the wire in it: a block written in one bus transaction, and a
block read. -/

namespace Sys2Proof.Machine

/-! ### The history since the last TAR write -/

theorem upToTar_append_sinceTar (h : List Event) : upToTar h ++ sinceTar h = h := by
  have hsuffix : sinceTar h <:+ h := by
    have hprefix := List.takeWhile_prefix (l := h.reverse) (p := fun e => !e.isTarWrite)
    rwa [← List.reverse_suffix, List.reverse_reverse] at hprefix
  rw [upToTar, List.suffix_iff_eq_append.1 hsuffix]

theorem isTarWrite_of_mem_sinceTar {h : List Event} {e : Event} (he : e ∈ sinceTar h) : e.isTarWrite = false := by
  have hall := List.all_takeWhile (l := h.reverse) (p := fun e => !e.isTarWrite)
  simpa using List.all_eq_true.1 hall e (List.mem_reverse.1 he)

section

variable {h es : List Event} (hes : ∀ e ∈ es, e.isTarWrite = false)

include hes

theorem sinceTar_append : sinceTar (h ++ es) = sinceTar h ++ es := by
  have hpass : ∀ e ∈ es.reverse, (!e.isTarWrite) = true := fun e he => by rw [hes e (List.mem_reverse.1 he)]; rfl
  rw [sinceTar, List.reverse_append, List.takeWhile_append_of_pos hpass, List.reverse_append, List.reverse_reverse]
  rfl

theorem upToTar_append : upToTar (h ++ es) = upToTar h := by
  have heq := upToTar_append_sinceTar (h ++ es)
  rw [sinceTar_append hes, ← List.append_assoc, List.append_left_inj] at heq
  rw [← List.append_left_inj (sinceTar h), heq, upToTar_append_sinceTar]

/-- Events without a TAR write, up to the first one. -/
theorem takeWhile_before_tarWrite (v : Word) (fs : List Event) :
    (es ++ .regWrite 0x04 v :: fs).takeWhile (fun e => !e.isTarWrite) = es := by
  rw [List.takeWhile_append_of_pos fun e he => by rw [hes e he]; rfl]
  exact List.append_nil es

end

/-- A TAR write ends all that was before it. -/
theorem sinceTar_of_tarWrite (h es : List Event) (v : Word) : sinceTar (h ++ .regWrite 0x04 v :: es) = sinceTar es := by
  have hstop (l : List Event) : (l ++ .regWrite 0x04 v :: h.reverse).takeWhile (fun e => !e.isTarWrite) =
      l.takeWhile fun e => !e.isTarWrite := by
    induction l with
    | nil => rfl
    | cons e l ih => rw [List.cons_append, List.takeWhile_cons, List.takeWhile_cons, ih]
  simp only [sinceTar, List.reverse_append, List.reverse_cons, List.append_assoc, List.singleton_append, hstop]

theorem upToTar_of_tarWrite (h es : List Event) (v : Word) :
    upToTar (h ++ .regWrite 0x04 v :: es) = h ++ .regWrite 0x04 v :: upToTar es := by
  rw [← List.append_left_inj (sinceTar es)]
  conv => lhs; rw [← sinceTar_of_tarWrite h es v]
  rw [upToTar_append_sinceTar, List.append_assoc, List.cons_append, upToTar_append_sinceTar]

theorem writesAt_append (off : Nat) (es fs : List Event) : writesAt off (es ++ fs) = writesAt off es ++ writesAt off fs :=
  List.filterMap_append

theorem readsAt_append (off : Nat) (es fs : List Event) : readsAt off (es ++ fs) = readsAt off es ++ readsAt off fs :=
  List.filterMap_append

/-! ### The tokens completed and the bytes received -/

/-- The byte that a token carries to the peripheral; a read token carries none (R160). -/
def Token.payload (t : Token) : Option Byte :=
  if t.cmd then none else some t.dat

/-- The payload of the token that the event completes (R165, R166). -/
def Event.completes : Event → Option (Option Byte)
  | .wTx _ b => some (some b)
  | .wRx _ _ => some none
  | .regRead _ _ | .regWrite _ _ | .grant _ _ | .release _ _ | .wStart _ | .wStop | .wAbort | .flush => none

/-- The byte received by the event (R166). -/
def Event.received : Event → Option Byte
  | .wRx _ b => some b
  | .regRead _ _ | .regWrite _ _ | .grant _ _ | .release _ _ | .wStart _ | .wTx _ _ | .wStop | .wAbort | .flush => none

/-- The events that name a peripheral. -/
def onWire (es : List Event) : List Event :=
  es.filter fun e => e.address.isSome

theorem onWire_append (es fs : List Event) : onWire (es ++ fs) = onWire es ++ onWire fs :=
  List.filter_append es fs

theorem onWire_cons_of_none {e : Event} (he : e.address = none) (es : List Event) : onWire (e :: es) = onWire es :=
  List.filter_cons_of_neg (by rw [he]; exact nofun)

theorem onWire_cons_of_some {e : Event} {a : BitVec 10} (he : e.address = some a) (es : List Event) :
    onWire (e :: es) = e :: onWire es :=
  List.filter_cons_of_pos (by rw [he]; rfl)

/-- The events since the last TAR write that name a peripheral. -/
def wireEvents (h : List Event) : List Event :=
  onWire (sinceTar h)

theorem wireEvents_append {es : List Event} (hes : ∀ e ∈ es, e.isTarWrite = false) (h : List Event) :
    wireEvents (h ++ es) = wireEvents h ++ onWire es := by
  rw [wireEvents, sinceTar_append hes, onWire_append]
  rfl

/-- Where the bus transaction is one and its tokens are writes, the events are known from the tokens. -/
theorem eq_writes_of_completes {A : BitVec 10} {es : List Event} {bs : List Byte}
    (haddr : ∀ e ∈ es, e.address = some A) (hone : .wStart A ∉ es)
    (hdone : es.filterMap Event.completes = bs.map some) : es = bs.map (.wTx A) := by
  induction es generalizing bs with
  | nil =>
    rw [List.map_eq_nil_iff.1 hdone.symm]
    rfl
  | cons e es ih =>
    have ha := haddr e List.mem_cons_self
    have hrest {cs : List Byte} := ih (bs := cs) (fun e he => haddr e (List.mem_cons_of_mem _ he))
      fun he => hone (List.mem_cons_of_mem _ he)
    cases e with
    | wStart a => cases ha; exact absurd List.mem_cons_self hone
    | wTx a b =>
      cases ha
      obtain ⟨c, cs, rfl, hc, hcs⟩ := List.map_eq_cons_iff.1 hdone.symm
      cases hc
      rw [hrest hcs.symm, List.map_cons]
    | wRx a b =>
      obtain ⟨c, cs, rfl, hc, -⟩ := List.map_eq_cons_iff.1 hdone.symm
      cases hc
    | _ => cases ha

/-! ### The fake peripheral and the events of the wire -/

/-- Every byte read at `A` is the one at the index (95_test_vectors.md section 0.3). -/
def Fake.Answers (A : BitVec 10) : Fake → List Event → Prop
  | _, [] => True
  | p, e :: es => (∀ b, e = .wRx A b → b = p.mem p.ptr) ∧ Fake.Answers A (p.on A e) es

section

variable {A : BitVec 10} {p : Fake}

theorem Fake.answers_append {es fs : List Event} :
    p.Answers A (es ++ fs) ↔ p.Answers A es ∧ (p.through A es).Answers A fs := by
  induction es generalizing p with
  | nil => exact ⟨fun h => ⟨trivial, h⟩, And.right⟩
  | cons e es ih => simp only [List.cons_append, Answers, ih, and_assoc]; rfl

/-- The events that name no peripheral do nothing to the fake one. -/
theorem Fake.through_onWire (es : List Event) : p.through A (onWire es) = p.through A es := by
  induction es generalizing p with
  | nil => rfl
  | cons e es ih =>
    cases he : e.address with
    | none =>
      rw [onWire_cons_of_none he, ih]
      exact congrArg (through A · es) (on_other (by rw [he]; exact nofun)).symm
    | some a =>
      rw [onWire_cons_of_some he]
      exact ih

theorem Fake.stores_cons (e : Event) (es : List Event) :
    Fake.stores A p (e :: es) = Fake.stores A p [e] ++ Fake.stores A (p.on A e) es := by
  cases e <;> simp [stores]

theorem Fake.stores_append (es fs : List Event) :
    Fake.stores A p (es ++ fs) = Fake.stores A p es ++ Fake.stores A (p.through A es) fs := by
  induction es generalizing p with
  | nil => rfl
  | cons e es ih =>
    rw [List.cons_append, stores_cons, ih, ← List.append_assoc, ← stores_cons]
    rfl

theorem Fake.stores_other {e : Event} (he : e.address = none) : Fake.stores A p [e] = [] := by
  cases e with
  | wStart a | wTx a b | wRx a b => cases he
  | _ => rfl

theorem Fake.stores_onWire (es : List Event) : Fake.stores A p (onWire es) = Fake.stores A p es := by
  induction es generalizing p with
  | nil => rfl
  | cons e es ih =>
    rw [stores_cons e es]
    cases he : e.address with
    | none =>
      rw [onWire_cons_of_none he, ih, stores_other he, on_other (by rw [he]; exact nofun)]
      rfl
    | some a => rw [onWire_cons_of_some he, stores_cons, ih]

/-- A byte of the memory that nothing is stored into keeps its value. -/
theorem Fake.mem_of_no_store {es : List Event} {i : Byte} (hes : ∀ st ∈ Fake.stores A p es, st.1 ≠ i) :
    (p.through A es).mem i = p.mem i := by
  induction es generalizing p with
  | nil => rfl
  | cons e es ih =>
    rw [stores_cons] at hes
    refine (ih fun st hst => hes st (List.mem_append_right _ hst)).trans ?_
    have he := fun st hst => hes st (List.mem_append_left _ hst)
    cases e with
    | wStart a | wRx a b => simp only [Fake.on]; split <;> rfl
    | wTx a b =>
      simp only [Fake.on]
      split
      next ha =>
        split
        · rfl
        next hf => exact if_neg fun hi => he (p.ptr, b) (by simp [stores, ha, hf]) hi.symm
      · rfl
    | _ => rfl

/-- Each byte written after the index is one store, and the stores go through the block from the index on. -/
theorem Fake.stores_writes (hf : p.fresh = false) (bs : List Byte) :
    (Fake.stores A p (bs.map (.wTx A))).length = bs.length ∧
      ∀ st ∈ Fake.stores A p (bs.map (.wTx A)), ∃ k < bs.length, st.1 = p.ptr + BitVec.ofNat 8 k := by
  induction bs using List.reverseRecOn with
  | nil => exact ⟨rfl, nofun⟩
  | append_singleton bs b ih =>
    obtain ⟨hlen, hall⟩ := ih
    obtain ⟨hfresh, hptr⟩ := through_writes (A := A) hf bs
    have hlast : Fake.stores A (p.through A (bs.map (.wTx A))) [.wTx A b] = [(p.ptr + BitVec.ofNat 8 bs.length, b)] := by
      simp [stores, hfresh, hptr]
    rw [List.map_append, List.map_singleton, stores_append, hlast, List.length_append, List.length_append, hlen]
    refine ⟨rfl, fun st hst => ?_⟩
    obtain hst | hst := List.mem_append.1 hst
    · obtain ⟨k, hk, heq⟩ := hall st hst
      exact ⟨k, Nat.lt_succ_of_lt hk, heq⟩
    · exact ⟨bs.length, Nat.lt_succ_self _, congrArg Prod.fst (List.mem_singleton.1 hst)⟩

/-- The `k`-th register of a block of at most 256 is in it. -/
theorem inBlock_of_offset {reg : Byte} {n k : Nat} (hn : n ≤ 256) (hk : k < n) (b : Byte) :
    inBlock reg n (reg + BitVec.ofNat 8 k, b) = true := by
  have hoff : (reg + BitVec.ofNat 8 k - reg).toNat = k := by
    rw [BitVec.add_comm, BitVec.add_sub_cancel, BitVec.toNat_ofNat]
    omega
  rw [inBlock, hoff]
  exact decide_eq_true hk

/-- The bytes received from the index on, in one bus transaction or several, are those of the memory. -/
theorem Fake.received_of_answers {es : List Event} (haddr : ∀ e ∈ es, e.address = some A)
    (hreads : ∀ x ∈ es.filterMap Event.completes, x = none) (hans : p.Answers A es) {k : Nat} {b : Byte}
    (hb : (es.filterMap Event.received)[k]? = some b) : b = p.mem (p.ptr + BitVec.ofNat 8 k) := by
  induction es generalizing p k with
  | nil => cases hb
  | cons e es ih =>
    obtain ⟨hfirst, hrest⟩ := hans
    have ha := haddr e List.mem_cons_self
    have haddr' := fun e' he' => haddr e' (List.mem_cons_of_mem e he')
    cases e with
    | wStart a =>
      cases ha
      simpa [Fake.on] using ih haddr' hreads hrest hb
    | wTx a c => exact absurd (hreads (some c) List.mem_cons_self) nofun
    | wRx a c =>
      cases ha
      cases k with
      | zero =>
        cases hb
        simpa using hfirst b rfl
      | succ k =>
        have hnext := ih haddr' (fun x hx => hreads x (List.mem_cons_of_mem _ hx)) hrest hb
        rw [hnext, Fake.on, if_pos rfl, Nat.add_comm k 1, BitVec.ofNat_add, ← BitVec.add_assoc]
        rfl
    | _ => cases ha

/-- In a transfer that writes the index `reg` and then reads, the bytes received are those of the memory from `reg`
on. -/
theorem Fake.received_of_index {reg : Byte} {n : Nat} {es : List Event} (haddr : ∀ e ∈ es, e.address = some A)
    (hdone : es.filterMap Event.completes <+: some reg :: List.replicate n none) (hf : p.fresh = true)
    (hans : p.Answers A es) {k : Nat} {b : Byte} (hb : (es.filterMap Event.received)[k]? = some b) :
    b = p.mem (reg + BitVec.ofNat 8 k) := by
  induction es generalizing p with
  | nil => cases hb
  | cons e es ih =>
    obtain ⟨-, hrest⟩ := hans
    have ha := haddr e List.mem_cons_self
    have haddr' := fun e' he' => haddr e' (List.mem_cons_of_mem e he')
    cases e with
    | wStart a =>
      cases ha
      simpa [Fake.on] using ih haddr' hdone (by simp [Fake.on]) hrest hb
    | wTx a c =>
      cases ha
      obtain ⟨hc, hreads⟩ := List.cons_prefix_cons.1 hdone
      cases hc
      have hnone : ∀ x ∈ es.filterMap Event.completes, x = none := fun x hx =>
        List.eq_of_mem_replicate (hreads.mem hx)
      simpa [Fake.on, hf] using received_of_answers haddr' hnone hrest hb
    | wRx a c =>
      obtain ⟨hc, -⟩ := List.cons_prefix_cons.1 hdone
      cases hc
    | _ => cases ha

end

end Sys2Proof.Machine
end

section
/-! PROOFS. All that a step of the block's own agents can do to what a transfer goes through (42_fifo_interface.md R163
to R168, 43_transfer_engine.md R184 to R191): the TAR register, the two FIFOs, the wire agent and the history. Nothing is
aborted. -/

namespace Sys2Proof.Machine

/-! ### The phases of a transfer -/

/-- The phases of an EXECUTE after its TAR write (R180). -/
def Phase.sending : Phase → Bool
  | .wrPoll | .wrPush | .rdPollTx | .rdPush | .rdPollRx | .rdPop => true
  | .idle | .validate | .busWait | .addressSet | .cfgDisable | .cfgSsHcnt | .cfgSsLcnt | .cfgFsHcnt | .cfgFsLcnt
  | .cfgCon | .cfgMask | .cfgEnable | .done | .timeout | .abort => false

/-- The phases in which a read token is pushed and its byte not yet popped (R190, R191). -/
def Phase.awaiting : Phase → Bool
  | .rdPollRx | .rdPop => true
  | .idle | .validate | .busWait | .addressSet | .wrPoll | .wrPush | .rdPollTx | .rdPush | .cfgDisable | .cfgSsHcnt
  | .cfgSsLcnt | .cfgFsHcnt | .cfgFsLcnt | .cfgCon | .cfgMask | .cfgEnable | .done | .timeout | .abort => false

/-- The engine serves an EXECUTE. -/
def State.Executes (s : State) : Prop :=
  ∃ a ten w n, s.req = some (.execute a ten w n)

/-- The engine serves an EXECUTE that has written TAR, and it has not timed out. -/
def State.Addressed (s : State) : Prop :=
  s.phase.sending = true ∨ s.phase = .done ∧ s.Executes

/-- The engine serves an EXECUTE that has timed out. -/
def State.TimedOut (s : State) : Prop :=
  s.phase = .timeout ∧ s.Executes

theorem State.not_addressed {s : State} (hs : s.phase.sending = false) (hd : s.phase ≠ .done) : ¬s.Addressed := fun h =>
  h.elim (fun h => Bool.noConfusion (hs.symm.trans h)) fun h => hd h.1

theorem Phase.sending_of_awaiting {p : Phase} (h : p.awaiting = true) : p.sending = true := by
  cases p with
  | rdPollRx | rdPop => rfl
  | _ => cases h

theorem Phase.transferring_of_sending {p : Phase} (h : p.sending = true) : p.transferring = true := by
  cases p with
  | wrPoll | wrPush | rdPollTx | rdPush | rdPollRx | rdPop => rfl
  | _ => cases h

/-- A step of the engine, or of another agent, that goes on with the request served as far as TAR and DATA_CMD are
concerned. -/
structure State.Continues (s t : State) : Prop where
  req : t.req = s.req
  sending : t.phase.sending = true → s.phase.sending = true
  addressed : t.Addressed → s.Addressed
  awaiting : t.TimedOut ∨ t.phase.awaiting = s.phase.awaiting
  timedOut : s.TimedOut → t.TimedOut

section

variable {s t : State}

theorem RunInvariant.executes_of_sending (hr : RunInvariant s) (hp : s.phase.sending = true) : s.Executes := by
  obtain ⟨-, -, -, htransfer⟩ := hr.serves
  obtain ⟨-, a, ten, w, n, hq, -⟩ := htransfer (Phase.transferring_of_sending hp)
  exact ⟨a, ten, w, n, hq⟩

theorem RunInvariant.awaiting_eq_false (hr : RunInvariant s) (hn : ¬s.Executes) : s.phase.awaiting = false :=
  Bool.eq_false_iff.2 fun hp => hn (hr.executes_of_sending (Phase.sending_of_awaiting hp))

theorem State.Executes.of_req (h : s.Executes) (hq : t.req = s.req) : t.Executes := by
  obtain ⟨a, ten, w, n, h⟩ := h
  exact ⟨a, ten, w, n, hq.trans h⟩

theorem State.Continues.of_same (hp : t.phase = s.phase) (hq : t.req = s.req) : s.Continues t where
  req := hq
  sending := by rw [hp]; exact id
  addressed := by
    unfold State.Addressed
    rw [hp]
    exact Or.imp_right (And.imp_right fun h => h.of_req hq.symm)
  awaiting := .inr (by rw [hp])
  timedOut h := ⟨hp.trans h.1, h.2.of_req hq⟩

/-- Between two phases neither of which is one in which TAR is written. -/
theorem State.Continues.of_not_sent (hq : t.req = s.req) (hs : s.phase.sending = false) (hs' : s.phase ≠ .timeout)
    (ht : t.phase.sending = false) (ht' : t.phase ≠ .done) : s.Continues t where
  req := hq
  sending h := absurd (ht.symm.trans h) nofun
  addressed h := h.elim (fun h => absurd (ht.symm.trans h) nofun) fun h => absurd h.1 ht'
  awaiting := by
    refine .inr ((?_ : t.phase.awaiting = false).trans (?_ : s.phase.awaiting = false).symm)
    · exact Bool.eq_false_iff.2 fun h => absurd (ht.symm.trans (Phase.sending_of_awaiting h)) nofun
    · exact Bool.eq_false_iff.2 fun h => absurd (hs.symm.trans (Phase.sending_of_awaiting h)) nofun
  timedOut h := absurd h.1 hs'

/-- A request other than EXECUTE goes on as itself. -/
theorem State.Continues.of_not_executes (hr : RunInvariant s) (hr' : RunInvariant t) (hn : ¬s.Executes)
    (hq : t.req = s.req) : s.Continues t := by
  have hn' : ¬t.Executes := fun h => hn (h.of_req hq.symm)
  refine ⟨hq, fun h => ?_, fun h => ?_, .inr ?_, fun h => absurd h.2 hn⟩
  · exact absurd (hr'.executes_of_sending h) hn'
  · exact h.elim (fun h => absurd (hr'.executes_of_sending h) hn') fun h => absurd h.2 hn'
  · rw [hr.awaiting_eq_false hn, hr'.awaiting_eq_false hn']

/-! ### What a transfer goes through -/

/-- The part of the state that a transfer goes through. -/
structure Lane where
  tar : Word
  txFifo : List Token
  rxFifo : List Byte
  wire : Wire
  hist : List Event

/-- The lane of a state. -/
def State.lane (s : State) : Lane where
  tar := s.regs.tar
  txFifo := s.txFifo
  rxFifo := s.rxFifo
  wire := s.wire
  hist := s.hist

/-- An event that is no part of a transfer: no TAR write, no access of DATA_CMD, and none that names a peripheral. -/
def Event.aside : Event → Bool
  | .regRead off _ => decide (off ≠ 0x10)
  | .regWrite off _ => decide (off ≠ 0x04) && decide (off ≠ 0x10)
  | .wStart _ | .wTx _ _ | .wRx _ _ => false
  | .grant _ _ | .release _ _ | .wStop | .wAbort | .flush => true

/-- All that a step of the block's own agents can do to the lane, and what it makes of the engine's phase. -/
inductive BusStep (s t : State) : Prop
  /-- Nothing but events aside; a flush finds no byte waited for. -/
  | moved (es : List Event) (rx : List Byte) (hes : ∀ e ∈ es, e.aside = true ∧ e.isGrant = false)
      (hrx : rx = s.rxFifo ∨ rx = [] ∧ s.phase.awaiting = false ∧ ¬s.TimedOut)
      (hl : t.lane = { s.lane with rxFifo := rx, hist := s.hist ++ es }) (hc : s.Continues t)
  | granted (r : Requester) (q : Request) (hp : s.phase = .idle) (ht : t = s.granted r q)
  | released (r : Requester) (res : Result) (hp : s.phase.terminal = true) (hres : s.result = some res)
      (ht : t = s.released r res)
  | addressed (a : Nat) (ten : Bool) (w : List Byte) (n : Nat) (hp : s.phase = .addressSet)
      (hq : s.req = some (.execute a ten w n)) (hq' : t.req = s.req)
      (hl : t.lane = { s.lane with tar := tarValue a ten, hist := s.hist ++ [.regWrite 0x04 (tarValue a ten)] })
      (hsend : t.phase.sending = true) (hawait : t.phase.awaiting = false)
  | pushed (v : Word) (hsend : s.phase.sending = true) (hq : t.req = s.req)
      (hl : t.lane = { s.lane with
        txFifo := s.txFifo ++ [tokenOf v], hist := s.hist ++ [.regWrite 0x10 v] })
      (hawait : s.phase.awaiting = false) (hawait' : t.phase.awaiting = (tokenOf v).cmd)
  | popped (v : Word) (rest : List Byte) (hawait : s.phase.awaiting = true) (hq : t.req = s.req)
      (hrx : s.rxFifo = receivedByte v :: rest)
      (hl : t.lane = { s.lane with rxFifo := rest, hist := s.hist ++ [.regRead 0x10 v] })
      (hawait' : t.phase.awaiting = false)
  | taken (tok : Token) (rest : List Token) (htx : s.txFifo = tok :: rest) (hin : s.wire.inflight = none)
      (hl : t.lane = { s.lane with
        txFifo := rest, wire := { inflight := some tok, busBusy := true },
        hist := s.hist ++ if s.wire.busBusy then [] else [.wStart s.target] })
      (hp : t.phase = s.phase) (hq : t.req = s.req)
  | sent (b : Byte) (hin : s.wire.inflight = some { cmd := false, dat := b })
      (hl : t.lane = { s.lane with
        wire := { s.wire with inflight := none }, hist := s.hist ++ [.wTx s.target b] })
      (hp : t.phase = s.phase) (hq : t.req = s.req)
  | received (d b : Byte) (hin : s.wire.inflight = some { cmd := true, dat := d })
      (hb : b = s.params.oracle.answer s.hist s.target s.tenBit)
      (hl : t.lane = { s.lane with
        rxFifo := s.rxFifo ++ [b], wire := { s.wire with inflight := none }, hist := s.hist ++ [.wRx s.target b] })
      (hp : t.phase = s.phase) (hq : t.req = s.req)
  | ended (hin : s.wire.inflight = none) (hb : s.wire.busBusy = true)
      (hl : t.lane = { s.lane with wire := { s.wire with busBusy := false }, hist := s.hist ++ [.wStop] })
      (hp : t.phase = s.phase) (hq : t.req = s.req)

/-- A push of a write byte goes on in a phase that awaits no byte (R187). -/
theorem awaiting_afterPush (wlen rlen : Nat) (u : State) : (afterPush wlen rlen u).phase.awaiting = false := by
  unfold afterPush
  split
  · rfl
  · split <;> rfl

theorem tokenOf_writeTokenValue (b : Byte) : tokenOf (writeTokenValue b) = { cmd := false, dat := b } := by
  rw [writeTokenValue, setWidth_eq_tokenWord, tokenOf_tokenWord]

namespace BusStep

/-- One event aside. -/
theorem of_event {e : Event} (he : e.aside = true) (hg : e.isGrant = false)
    (hl : t.lane = { s.lane with hist := s.hist ++ [e] }) (hc : s.Continues t) : BusStep s t := by
  refine .moved [e] s.rxFifo (fun e' he' => ?_) (.inl rfl) hl hc
  obtain rfl := List.mem_singleton.1 he'
  exact ⟨he, hg⟩

theorem of_continues (hl : t.lane = s.lane) (hc : s.Continues t) : BusStep s t := by
  refine .moved [] s.rxFifo nofun (.inl rfl) ?_ hc
  rw [hl, List.append_nil]
  rfl

theorem of_same (hl : t.lane = s.lane := by rfl) (hp : t.phase = s.phase := by rfl) (hq : t.req = s.req := by rfl) :
    BusStep s t :=
  of_continues hl (.of_same hp hq)

theorem raise (s : State) (x : FaultReason) : BusStep s (s.raise x) := by
  refine of_same ?_ (s.raise_phase x) (s.raise_req x)
  simp only [State.lane, State.raise_regs, State.raise_txFifo, State.raise_rxFifo, State.raise_wire, State.raise_hist]

/-! ### The wire agent, the lock and the requesters -/

theorem of_token {tok : Token} (hin : s.wire.inflight = some tok) (h : exec tok.instr s = .next t) : BusStep s t := by
  obtain ⟨cmd, d⟩ := tok
  cases cmd with
  | false =>
    obtain rfl | ⟨-, rfl⟩ := execWtok_next_cases h
    · exact of_same
    · exact .sent d hin rfl rfl rfl
  | true =>
    obtain rfl | ⟨-, rfl⟩ := execRtok_next_cases h
    · exact of_same
    · exact .received d _ hin rfl rfl rfl rfl

theorem of_runMove {m : Move} (ho : m.own = true) (ha : s.params.mayAbort = false) (h : runMove m s = .next t) :
    BusStep s t := by
  cases m with
  | access a => cases ho
  | engine | wComplete => exact hold_next.1 (whenRunning_next.1 h).2 ▸ of_same
  | wTake =>
    obtain rfl | ⟨tok, rest, htx, -, hin, rfl⟩ := wireTake_next_cases h
    · exact of_same
    · exact .taken tok rest htx hin rfl rfl rfl
  | wEnd =>
    obtain rfl | ⟨hg, rfl⟩ := wireEnd_next_cases h
    · exact of_same
    · obtain ⟨-, hb, hin, -⟩ := wireEnd_guard_iff.1 hg
      exact .ended hin hb rfl rfl rfl
  | wAbort =>
    obtain rfl | ⟨hg, rfl⟩ := wireAbort_next_cases h
    · exact of_same
    · obtain ⟨-, hmay, -⟩ := wireAbort_guard_iff.1 hg
      exact absurd (ha.symm.trans hmay) nofun
  | grant r =>
    obtain rfl | ⟨q, -, -, hp, -, rfl⟩ := grant_next_cases h
    · exact of_same
    · exact .granted r q hp rfl
  | release =>
    obtain rfl | ⟨r, res, hp, -, hres, rfl⟩ := release_next_cases h
    · exact of_same
    · exact .released r res hp hres rfl
  | issue r rec => obtain rfl | ⟨q, -, -, rfl⟩ := issueRecord_next_cases h <;> exact of_same
  | collect r => obtain rfl | ⟨res, -, rfl⟩ := collect_next_cases h <;> exact of_same
  | helper r addr hp =>
    obtain rfl | ⟨-, ⟨q, -, rfl⟩ | ⟨res, -, rfl⟩⟩ := callHelper_next_cases h <;> exact of_same

/-! ### The steps of EXECUTE -/

/-- A poll goes on, waits or times out (R181). -/
theorem of_pollAfter {next : Phase} (bound : Nat) (k : Wait) (success : Word → Bool) (v : Word) (he : s.Executes)
    (hp : s.phase.afterPoll = some next) : BusStep s (pollAfter bound k success next v (statusRead s)) := by
  have hnext : s.phase ≠ .timeout ∧ next ≠ .done ∧ next.sending = s.phase.sending ∧
      next.awaiting = s.phase.awaiting := by
    cases hph : s.phase with rw [hph] at hp
    | busWait | wrPoll | rdPollTx | rdPollRx => cases hp; exact ⟨nofun, nofun, rfl, rfl⟩
    | _ => cases hp
  obtain ⟨hrun, hdone, hsend, hawait⟩ := hnext
  by_cases hv : success v = true
  · rw [pollAfter_of_success hv]
    refine of_event rfl rfl rfl ⟨rfl, fun h => hsend ▸ h, fun h => ?_, .inr hawait, fun h => absurd h.1 hrun⟩
    exact h.elim (fun h => .inl (hsend ▸ h)) fun h => absurd h.1 hdone
  · by_cases hlt : (statusRead s).cnt < bound
    · rw [pollAfter_of_failure hv hlt]
      exact of_event rfl rfl rfl (.of_same rfl rfl)
    · rw [pollAfter_of_bound hv hlt]
      refine of_event rfl rfl rfl ⟨rfl, nofun, fun h => ?_, .inl ⟨rfl, he⟩, fun _ => ⟨rfl, he⟩⟩
      exact h.elim nofun fun h => absurd h.1 nofun

theorem of_validateExecute (maxLen : Option Nat) (a : Nat) (ten : Bool) (w : List Byte) (n : Nat)
    (hp : s.phase = .validate) : BusStep s (validateExecute maxLen a ten w n s) := by
  have hsend : s.phase.sending = false := hp ▸ rfl
  have hrun : s.phase ≠ .timeout := hp ▸ nofun
  unfold validateExecute
  dsimp only
  split
  · exact of_continues rfl (.of_not_sent rfl hsend hrun rfl nofun)
  · split <;> exact of_continues rfl (.of_not_sent rfl hsend hrun rfl nofun)

theorem of_bytePushed (hr : RunInvariant s) (hp : s.phase = .wrPush) (wlen rlen : Nat) (b : Byte) :
    BusStep s (afterPush wlen rlen
      ((Reg.writeEffect .dataCmd (writeTokenValue b) s).record (.regWrite 0x10 (writeTokenValue b)))) := by
  have heff : Reg.writeEffect .dataCmd (writeTokenValue b) s =
      { s with txFifo := s.txFifo ++ [tokenOf (writeTokenValue b)] } := pushToken_of_room (hr.roomToPush (.inl hp)) _
  have hawait : false = (tokenOf (writeTokenValue b)).cmd := by rw [tokenOf_writeTokenValue]
  rw [heff]
  refine .pushed (writeTokenValue b) (hp ▸ rfl) ?_ ?_ (hp ▸ rfl) ((awaiting_afterPush _ _ _).trans hawait)
  all_goals
    obtain ⟨i, res, p, heq⟩ := afterPush_eq wlen rlen (State.record
      { s with txFifo := s.txFifo ++ [tokenOf (writeTokenValue b)] } (.regWrite 0x10 (writeTokenValue b)))
    rw [heq]
    rfl

theorem of_tokenPushed (hr : RunInvariant s) (hp : s.phase = .rdPush) : BusStep s (toPhase .rdPollRx
    ((Reg.writeEffect .dataCmd readTokenValue s).record (.regWrite 0x10 readTokenValue))) := by
  have heff : Reg.writeEffect .dataCmd readTokenValue s =
      { s with txFifo := s.txFifo ++ [tokenOf readTokenValue] } := pushToken_of_room (hr.roomToPush (.inr hp)) _
  rw [heff]
  exact .pushed readTokenValue (hp ▸ rfl) rfl rfl (hp ▸ rfl) (show true = (tokenOf readTokenValue).cmd by decide)

theorem of_bytePopped {a n : Nat} {ten : Bool} {w : List Byte} (hr : RunInvariant s)
    (hq : s.req = some (.execute a ten w n)) (hp : s.phase = .rdPop)
    (h : exec (.execute a ten w n) s = .next t) : BusStep s t := by
  obtain ⟨hi, -⟩ := hr.transfer_of_phase hq hp
  obtain ⟨hon, -⟩ := hr.enabledAfterInit hi (hp ▸ rfl)
  obtain ⟨b, rest, hrx⟩ := List.exists_cons_of_ne_nil (hr.byteToPop hp)
  obtain ⟨v, rfl, hmore, hdone⟩ := readBytePop a ten w n b rest s hr.noFault hr.mapped hp hq hon hrx
  by_cases hlt : s.idx + 1 < n
  · obtain rfl := Host.Outcome.next.inj (h.symm.trans (hmore hlt))
    exact .popped v rest (hp ▸ rfl) rfl hrx rfl rfl
  · obtain rfl := Host.Outcome.next.inj (h.symm.trans (hdone (Nat.not_lt.1 hlt)))
    exact .popped v rest (hp ▸ rfl) rfl hrx rfl rfl

theorem of_execute {a n : Nat} {ten : Bool} {w : List Byte} (hr : RunInvariant s)
    (hq : s.req = some (.execute a ten w n)) (h : exec (.execute a ten w n) s = .next t) : BusStep s t := by
  cases execExecute_next_cases h with
  | held => exact of_same
  | faulted x => exact raise s x
  | validated hp => exact of_validateExecute _ a ten w n hp
  | polled bound k success hp => exact of_pollAfter bound k success _ ⟨a, ten, w, n, hq⟩ hp
  | addressed hp =>
    rw [Host.Outcome.next.inj (h.symm.trans (exec_execute_of_addressSet hr hp hq))]
    refine .addressed a ten w n hp hq rfl rfl ?_ ?_ <;> (dsimp only; split <;> rfl)
  | bytePushed hp hb => exact of_bytePushed hr hp _ _ _
  | tokenPushed hp => exact of_tokenPushed hr hp
  | bytePopped v hp => exact of_bytePopped hr hq hp h

/-! ### The steps of INIT and SET_SPEED -/

/-- The lane after a step of a reconfiguration: events aside, and at most a flush of the RX FIFO. -/
def Reconfigures (s t : State) : Prop :=
  ∃ es rx, (∀ e ∈ es, e.aside = true ∧ e.isGrant = false) ∧ (rx = s.rxFifo ∨ rx = []) ∧
    t.lane = { s.lane with rxFifo := rx, hist := s.hist ++ es }

theorem Reconfigures.of_same (hl : t.lane = s.lane) : Reconfigures s t := by
  refine ⟨[], s.rxFifo, nofun, .inl rfl, ?_⟩
  rw [hl, List.append_nil]
  rfl

theorem Reconfigures.of_raise (s : State) (x : FaultReason) : Reconfigures s (s.raise x) := by
  refine of_same ?_
  simp only [State.lane, State.raise_regs, State.raise_txFifo, State.raise_rxFifo, State.raise_wire, State.raise_hist]

/-- A write of ENABLE finds the TX FIFO empty where it flushes (R126, R130). -/
theorem Reconfigures.of_writeEnable {v : Word} (hf : FifoInvariant s) (hw : Reg.firstWriteFault .enable v s = none)
    (hl : t.lane = ((Reg.writeEffect .enable v s).record (.regWrite 0x6C v)).lane) : Reconfigures s t := by
  cases hv : v.getLsbD 0 with
  | true =>
    refine ⟨[.regWrite 0x6C v], s.rxFifo, fun e he => ?_, .inl rfl, ?_⟩
    · obtain rfl := List.mem_singleton.1 he
      exact ⟨rfl, rfl⟩
    · rw [hl]
      simp only [Reg.writeEffect, hv, if_true]
      rfl
  | false =>
    have htx : s.txFifo = [] := by
      obtain hd | ha := activity_of_writeFault_enable (Reg.writeFault_eq_none hw) hv
      · exact (hf.disabledIsIdle hd).1
      · exact ((activity_eq_false s).1 ha).1
    refine ⟨[.flush, .regWrite 0x6C v], [], fun e he => ?_, .inr rfl, ?_⟩
    · obtain rfl | he := List.mem_cons.1 he
      · exact ⟨rfl, rfl⟩
      · obtain rfl := List.mem_singleton.1 he
        exact ⟨rfl, rfl⟩
    · rw [hl]
      simp only [Reg.writeEffect, hv, Bool.false_eq_true, if_false, State.lane, htx, State.record, List.append_assoc]
      rfl

theorem Reconfigures.of_engineWrite {r : Reg} {v : Word} {after : State → State} (hf : FifoInvariant s)
    (h : engineWrite r v after s = .next t) (hafter : ∀ u : State, (after u).lane = u.lane)
    (hro : r.readOnly = false) (htar : r ≠ .tar) (hdata : r ≠ .dataCmd) : Reconfigures s t := by
  obtain ⟨x, -, rfl⟩ | ⟨hw, rfl⟩ := engineWrite_next.1 h
  · exact of_raise s x
  · by_cases he : r = .enable
    · subst he
      exact of_writeEnable hf hw (hafter _)
    · refine ⟨[.regWrite r.offset v], s.rxFifo, fun e hmem => ?_, .inl rfl, ?_⟩
      · obtain rfl := List.mem_singleton.1 hmem
        cases r with
        | tar => exact absurd rfl htar
        | dataCmd => exact absurd rfl hdata
        | _ => exact ⟨rfl, rfl⟩
      · rw [hafter, Reg.writeEffect_storage hro hdata he]
        cases r with
        | tar => exact absurd rfl htar
        | _ => rfl

theorem Reconfigures.of_cfgStep (hf : FifoInvariant s) (h : cfgStep s = .next t) : Reconfigures s t := by
  unfold cfgStep at h
  split at h
  case h_9 => exact of_same (hold_next.1 h ▸ rfl)
  all_goals exact of_engineWrite hf h (fun _ => rfl) rfl nofun nofun

theorem Reconfigures.of_execInit {f : Nat} (hf : FifoInvariant s) (h : execInit f s = .next t) : Reconfigures s t := by
  obtain ⟨-, ⟨-, h⟩ | ⟨-, rfl⟩⟩ := whileServing_next.1 h
  · split at h
    · cases h
      unfold validateInit
      split
      · exact of_same rfl
      · split <;> exact of_same rfl
    · exact of_cfgStep hf h
  · exact of_same rfl

theorem Reconfigures.of_execSetSpeed {f : Nat} (hf : FifoInvariant s) (h : execSetSpeed f s = .next t) :
    Reconfigures s t := by
  obtain ⟨-, ⟨-, h⟩ | ⟨-, rfl⟩⟩ := whileServing_next.1 h
  · split at h
    · cases h
      unfold validateSetSpeed
      split
      · exact of_same rfl
      · split <;> exact of_same rfl
    · obtain ⟨-, rfl⟩ | ⟨-, rfl⟩ := poll_next.1 h
      · exact of_raise s _
      · obtain ⟨c, res, p, heq⟩ := pollAfter_eq s.params.nBus .bus (fun v => !readsActive v) .cfgDisable
          (Reg.readWith .status s.draw s) (statusRead s)
        rw [heq]
        refine ⟨[.regRead 0x70 (Reg.readWith .status s.draw s)], s.rxFifo, fun e he => ?_, .inl rfl, rfl⟩
        obtain rfl := List.mem_singleton.1 he
        exact ⟨rfl, rfl⟩
    · exact of_cfgStep hf h
  · exact of_same rfl

/-- A step of a request other than EXECUTE, between two states of a run. -/
theorem of_reconfigures (hr : RunInvariant s) (hr' : RunInvariant t) (hn : ¬s.Executes) (hq : t.req = s.req)
    (h : Reconfigures s t) : BusStep s t := by
  obtain ⟨es, rx, hes, hrx, hl⟩ := h
  refine .moved es rx hes (hrx.imp_right fun hnil => ?_) hl (.of_not_executes hr hr' hn hq)
  exact ⟨hnil, hr.awaiting_eq_false hn, fun h => hn h.2⟩

theorem of_request {q : Request} (hr : RunInvariant s) (hr' : RunInvariant t) (hq : s.req = some q)
    (h : exec q.instr s = .next t) : BusStep s t := by
  cases q with
  | init f =>
    refine of_reconfigures hr hr' ?_ (execInit_req h) (.of_execInit hr.fifos h)
    rintro ⟨a, ten, w, n, hq'⟩
    cases hq.symm.trans hq'
  | setSpeed f =>
    refine of_reconfigures hr hr' ?_ (execSetSpeed_req h) (.of_execSetSpeed hr.fifos h)
    rintro ⟨a, ten, w, n, hq'⟩
    cases hq.symm.trans hq'
  | execute a ten w n => exact of_execute hr hq h

/-- A step of the block's own agents that may not abort. -/
theorem of_step {m : Move} (hr : RunInvariant s) (ha : s.params.mayAbort = false) (ho : m.own = true)
    (h : step (s.offer m) = .next t) : BusStep s t := by
  have hr' := (hr.offer m).of_step ho h
  obtain rfl | ⟨q, hq, h⟩ | ⟨tok, hin, h⟩ | h := step_own_cases (s := s.offer m) ho h
  · exact of_same
  · exact of_request hr hr' hq h
  · exact of_token hin h
  · exact of_runMove ho ha h

end BusStep

end

end Sys2Proof.Machine
end

section
/-! PROOFS. The account of a transfer (43_transfer_engine.md R199 to R202, 42_fifo_interface.md R164 to R168): since the
last TAR write every token pushed has been completed, in order, or is in flight or queued, every byte received has been
popped, in order, or is in the RX FIFO, and no byte is left over from an earlier transfer (70_reset_and_hazards.md R267)
unless a read timed out. -/

namespace Sys2Proof.Machine

/-! ### The account -/

/-- TEN_BIT of the lane's TAR. -/
def Lane.tenBit (l : Lane) : Bool :=
  l.tar.getLsbD 12

/-- The peripheral's address of the lane's TAR, as `State.target` has it. -/
def Lane.target (l : Lane) : BitVec 10 :=
  if l.tenBit then l.tar.extractLsb' 0 10 else BitVec.setWidth 10 (l.tar.extractLsb' 0 7)

/-- Nothing is in flight and the bus is released. -/
def Lane.BusFree (l : Lane) : Prop :=
  l.wire.inflight = none ∧ l.wire.busBusy = false

/-- The tokens in flight and queued, oldest first, by their payloads. -/
def Lane.pending (l : Lane) : List (Option Byte) :=
  (l.wire.inflight.toList ++ l.txFifo).map Token.payload

/-- The payloads of the tokens that the events push (R83). -/
def pushedPayloads (es : List Event) : List (Option Byte) :=
  (writesAt 0x10 es).map fun v => (tokenOf v).payload

/-- The bytes that the events pop (R85). -/
def poppedBytes (es : List Event) : List Byte :=
  (readsAt 0x10 es).map receivedByte

theorem pushedPayloads_append (es fs : List Event) :
    pushedPayloads (es ++ fs) = pushedPayloads es ++ pushedPayloads fs := by
  rw [pushedPayloads, writesAt_append, List.map_append]
  rfl

theorem poppedBytes_append (es fs : List Event) : poppedBytes (es ++ fs) = poppedBytes es ++ poppedBytes fs := by
  rw [poppedBytes, readsAt_append, List.map_append]
  rfl

/-- The account since the last TAR write: of the tokens, of the bytes received, of the addresses on the wire, of the
first bus transaction, and of what the fake peripheral at `A` with the memory `m0` answered. -/
structure Accounted (A : BitVec 10) (m0 : Byte → Byte) (l : Lane) : Prop where
  tokens : pushedPayloads (sinceTar l.hist) = (wireEvents l.hist).filterMap Event.completes ++ l.pending
  bytes : (wireEvents l.hist).filterMap Event.received = poppedBytes (sinceTar l.hist) ++ l.rxFifo
  target : ∀ e ∈ wireEvents l.hist, e.address = some l.target
  begun : wireEvents l.hist = [] ∧ l.BusFree ∨ ∃ es, wireEvents l.hist = .wStart l.target :: es
  answers : l.tenBit = false → (Fake.after A m0 (upToTar l.hist)).Answers A (wireEvents l.hist)

section

variable {A : BitVec 10} {m0 : Byte → Byte}

/-- The account goes on with events that write no TAR, if what they add to each side of it is the same. -/
theorem Accounted.extend {l l' : Lane} (h : Accounted A m0 l) {es : List Event}
    (hes : ∀ e ∈ es, e.isTarWrite = false) (hhist : l'.hist = l.hist ++ es) (htar : l'.tar = l.tar)
    (htokens : l.pending ++ pushedPayloads es = (onWire es).filterMap Event.completes ++ l'.pending)
    (hbytes : l.rxFifo ++ (onWire es).filterMap Event.received = poppedBytes es ++ l'.rxFifo)
    (htarget : ∀ e ∈ onWire es, e.address = some l.target)
    (hbegun : l.BusFree → onWire es = [] ∧ l'.BusFree ∨ ∃ fs, onWire es = .wStart l.target :: fs)
    (hanswers : l.tenBit = false → (Fake.after A m0 l.hist).Answers A (onWire es)) : Accounted A m0 l' := by
  have hten : l'.tenBit = l.tenBit := by rw [Lane.tenBit, htar]; rfl
  have hgoal : l'.target = l.target := by rw [Lane.target, hten, htar]; rfl
  have hwire : wireEvents l'.hist = wireEvents l.hist ++ onWire es := by rw [hhist, wireEvents_append hes]
  have hsince : sinceTar l'.hist = sinceTar l.hist ++ es := by rw [hhist, sinceTar_append hes]
  have hbase : upToTar l'.hist = upToTar l.hist := by rw [hhist, upToTar_append hes]
  constructor
  · rw [hwire, hsince, pushedPayloads_append, h.tokens, List.append_assoc, htokens, List.filterMap_append,
      List.append_assoc]
  · rw [hwire, hsince, poppedBytes_append, List.filterMap_append, h.bytes, List.append_assoc, hbytes,
      List.append_assoc]
  · rw [hwire, hgoal]
    exact fun e he => (List.mem_append.1 he).elim (h.target e) (htarget e)
  · rw [hwire, hgoal]
    obtain ⟨hnone, hfree⟩ | ⟨fs, hfs⟩ := h.begun
    · rw [hnone]
      exact hbegun hfree
    · exact .inr ⟨fs ++ onWire es, by rw [hfs, List.cons_append]⟩
  · intro hoff
    rw [hten] at hoff
    rw [hwire, hbase, Fake.answers_append, wireEvents, Fake.through_onWire, ← Fake.after_append,
      upToTar_append_sinceTar]
    exact ⟨h.answers hoff, hanswers hoff⟩

/-- A TAR write on an idle bus, with no byte left over, begins a new account. -/
theorem Accounted.of_tarWrite {l : Lane} {h : List Event} {v : Word} (hhist : l.hist = h ++ [.regWrite 0x04 v])
    (htx : l.txFifo = []) (hrx : l.rxFifo = []) (hfree : l.BusFree) : Accounted A m0 l := by
  have hsince : sinceTar l.hist = [] := by
    rw [hhist, sinceTar_of_tarWrite]
    rfl
  have hwire : wireEvents l.hist = [] := by rw [wireEvents, hsince]; rfl
  constructor
  · rw [hwire, hsince, Lane.pending, hfree.1, htx]
    rfl
  · rw [hwire, hsince, hrx]
    rfl
  · rw [hwire]
    exact nofun
  · exact .inl ⟨hwire, hfree⟩
  · rw [hwire]
    exact fun _ => trivial

/-! ### The account under a step -/

theorem Event.of_aside {e : Event} (he : e.aside = true) : e.isTarWrite = false ∧ e.address = none ∧
    writesAt 0x10 [e] = [] ∧ readsAt 0x10 [e] = [] := by
  cases e with
  | regRead off v => exact ⟨rfl, rfl, rfl, by simpa [readsAt, aside] using he⟩
  | regWrite off v =>
    simp only [aside, Bool.and_eq_true, decide_eq_true_eq] at he
    exact ⟨by simp [isTarWrite, he.1], rfl, by simp [writesAt, he.2], rfl⟩
  | wStart | wTx | wRx => cases he
  | _ => exact ⟨rfl, rfl, rfl, rfl⟩

theorem of_all_aside {es : List Event} (hes : ∀ e ∈ es, e.aside = true) : (∀ e ∈ es, e.isTarWrite = false) ∧
    onWire es = [] ∧ pushedPayloads es = [] ∧ poppedBytes es = [] := by
  induction es with
  | nil => exact ⟨nofun, rfl, rfl, rfl⟩
  | cons e es ih =>
    obtain ⟨htar, haddr, hwrites, hreads⟩ := Event.of_aside (hes e List.mem_cons_self)
    obtain ⟨htars, hwire, hpushed, hpopped⟩ := ih fun e' he' => hes e' (List.mem_cons_of_mem e he')
    refine ⟨List.forall_mem_cons.2 ⟨htar, htars⟩, ?_, ?_, ?_⟩
    · rw [onWire_cons_of_none haddr, hwire]
    · rw [← List.singleton_append, pushedPayloads_append, hpushed, pushedPayloads, hwrites]
      rfl
    · rw [← List.singleton_append, poppedBytes_append, hpopped, poppedBytes, hreads]
      rfl

variable {contents : List Byte} {s t : State}

/-- The memory of the fake peripheral at first. -/
def fileOf (contents : List Byte) : Byte → Byte := fun i => contents.getD i.toNat 0

/-- Events aside change the account of nothing but the bytes, where the RX FIFO is flushed. -/
theorem Accounted.of_aside {l l' : Lane} (h : Accounted A m0 l) {es : List Event} (hes : ∀ e ∈ es, e.aside = true)
    (hhist : l'.hist = l.hist ++ es) (htar : l'.tar = l.tar := by rfl) (htx : l'.txFifo = l.txFifo := by rfl)
    (hin : l'.wire.inflight = l.wire.inflight := by rfl) (hrx : l'.rxFifo = l.rxFifo := by rfl)
    (hfree : l.BusFree → l'.BusFree := by exact id) : Accounted A m0 l' := by
  obtain ⟨htars, hwire, hpushed, hpopped⟩ := of_all_aside hes
  have hpending : l'.pending = l.pending := by rw [Lane.pending, hin, htx]; rfl
  refine h.extend htars hhist htar ?_ ?_ ?_ ?_ ?_ <;> rw [hwire]
  · rw [hpushed, hpending, List.append_nil]
    rfl
  · rw [hpopped, hrx, List.filterMap_nil, List.append_nil]
    rfl
  · exact nofun
  · exact fun hl => .inl ⟨rfl, hfree hl⟩
  · exact fun _ => trivial

/-- What the fake peripheral answers where TAR has its address in 7-bit mode is the byte at its index. -/
theorem answer_of_fake (hfake : s.params.oracle = .fake A contents) (hten : s.tenBit = false) (ht : s.target = A) :
    s.params.oracle.answer s.hist s.target s.tenBit =
      (Fake.after A (fileOf contents) s.hist).mem (Fake.after A (fileOf contents) s.hist).ptr := by
  rw [hfake, Oracle.answer, fakePeriph, if_pos ⟨ht, hten⟩]
  rfl

/-- A take records the start of a bus transaction where the bus is free. -/
theorem Accounted.of_taken {tok : Token} {rest : List Token} (h : Accounted A m0 s.lane) (htx : s.txFifo = tok :: rest)
    (hin : s.wire.inflight = none) : Accounted A m0 { s.lane with
      txFifo := rest, wire := { inflight := some tok, busBusy := true },
      hist := s.hist ++ if s.wire.busBusy then [] else [.wStart s.target] } := by
  have hpending : s.lane.pending = tok.payload :: rest.map Token.payload := by
    simp [Lane.pending, State.lane, hin, htx]
  cases hb : s.wire.busBusy with
  | true =>
    refine h.extend (es := []) nofun rfl rfl ?_ ?_ nofun (fun hfree => ?_) fun _ => trivial
    · exact (List.append_nil _).trans hpending
    · exact List.append_nil _
    · exact absurd (hb.symm.trans hfree.2) nofun
  | false =>
    refine h.extend (es := [.wStart s.target]) ?_ rfl rfl ?_ ?_ ?_ (fun _ => .inr ⟨[], rfl⟩) fun _ => ⟨nofun, trivial⟩
    · exact List.forall_mem_singleton.2 rfl
    · exact (List.append_nil _).trans hpending
    · exact List.append_nil _
    · exact List.forall_mem_singleton.2 rfl

/-! ### The bytes left over -/

/-- The read tokens pushed whose bytes have not been popped, as `State.unreadBytes` counts them. -/
def Lane.unread (l : Lane) : Nat :=
  l.txFifo.countP Token.cmd + l.wire.inflight.toList.countP Token.cmd + l.rxFifo.length

/-- No byte is left over from a transfer: there is one unread byte where the engine waits for it, and none elsewhere, but
for the EXECUTE being served having timed out. -/
def NothingLeft (s : State) : Prop :=
  s.TimedOut ∨ s.lane.unread = if s.phase.awaiting then 1 else 0

theorem NothingLeft.rxFifo_eq_nil (h : NothingLeft s) (ht : ¬s.TimedOut) (ha : s.phase.awaiting = false) :
    s.rxFifo = [] := by
  have h := h.resolve_left ht
  rw [ha] at h
  exact List.length_eq_zero_iff.1 (Nat.eq_zero_of_add_eq_zero_left h)

theorem not_timedOut_of_sending (hp : s.phase.sending = true) : ¬s.TimedOut := fun h => by
  rw [h.1] at hp
  cases hp

/-! ### The steps -/

/-- A step keeps the account, where no TAR is written and no byte is left over. -/
theorem Accounted.step (h : Accounted A (fileOf contents) s.lane) (hstep : BusStep s t)
    (hfake : s.params.oracle = .fake A contents) (hleft : NothingLeft s)
    (htar : s.phase = .addressSet → ∀ v, t.hist ≠ s.hist ++ [.regWrite 0x04 v]) :
    Accounted A (fileOf contents) t.lane := by
  cases hstep with
  | moved es rx hes hrx hl hc =>
    rw [hl]
    refine h.of_aside (fun e he => (hes e he).1) rfl (hrx := ?_)
    exact hrx.elim id fun ⟨hnil, ha, ht⟩ => hnil.trans (hleft.rxFifo_eq_nil ht ha).symm
  | granted r q hp ht => exact ht ▸ h.of_aside (es := [.grant r q]) (List.forall_mem_singleton.2 rfl) rfl
  | released r res hp hres ht => exact ht ▸ h.of_aside (es := [.release r res]) (List.forall_mem_singleton.2 rfl) rfl
  | ended hin hb hl hp hq =>
    rw [hl]
    exact h.of_aside (es := [.wStop]) (List.forall_mem_singleton.2 rfl) rfl (hfree := fun hfree => ⟨hfree.1, rfl⟩)
  | addressed a ten w n hp hq hq' hl => exact absurd (congrArg Lane.hist hl) (htar hp _)
  | pushed v hsend hq hl hawait hawait' =>
    rw [hl]
    refine h.extend (es := [.regWrite 0x10 v]) (List.forall_mem_singleton.2 rfl) rfl rfl ?_ (List.append_nil _) nofun
      (fun hfree => .inl ⟨rfl, hfree⟩) fun _ => trivial
    simp [Lane.pending, State.lane, pushedPayloads, writesAt, onWire, Event.address]
  | popped v rest hawait hq hrx hl hawait' =>
    rw [hl]
    refine h.extend (es := [.regRead 0x10 v]) (List.forall_mem_singleton.2 rfl) rfl rfl (List.append_nil _) ?_ nofun
      (fun hfree => .inl ⟨rfl, hfree⟩) fun _ => trivial
    exact (List.append_nil _).trans hrx
  | taken tok rest htx hin hl hp hq => exact hl ▸ h.of_taken htx hin
  | sent b hin hl hp hq =>
    rw [hl]
    refine h.extend (es := [.wTx s.target b]) (List.forall_mem_singleton.2 rfl) rfl rfl ?_ (List.append_nil _)
      (List.forall_mem_singleton.2 rfl) (fun hfree => ?_) fun _ => ⟨nofun, trivial⟩
    · simp [Lane.pending, State.lane, hin, pushedPayloads, writesAt, onWire, Event.address, Event.completes,
        Token.payload]
    · exact absurd (hin.symm.trans hfree.1) nofun
  | received d b hin hb hl hp hq =>
    rw [hl]
    refine h.extend (es := [.wRx s.target b]) (List.forall_mem_singleton.2 rfl) rfl rfl ?_ rfl
      (List.forall_mem_singleton.2 rfl) (fun hfree => ?_) fun hten => ⟨fun c hc => ?_, trivial⟩
    · simp [Lane.pending, State.lane, hin, pushedPayloads, writesAt, onWire, Event.address, Event.completes,
        Token.payload]
    · exact absurd (hin.symm.trans hfree.1) nofun
    · obtain ⟨ht, rfl⟩ := Event.wRx.inj hc
      exact hb.trans (answer_of_fake hfake hten ht)

/-- A step that does not release a Timeout leaves no byte over. -/
theorem NothingLeft.step (h : NothingLeft s) (hstep : BusStep s t) (htrace : TransferTrace s)
    (hn : ∀ r info, t.hist ≠ s.hist ++ [.release r (.err .timeout info)]) : NothingLeft t := by
  have hwire (hu : t.lane.unread = s.lane.unread) (hp : t.phase = s.phase) (hq : t.req = s.req) : NothingLeft t := by
    refine h.imp (fun h => ⟨hp.trans h.1, h.2.of_req hq⟩) fun h => ?_
    rw [hu, h, hp]
  cases hstep with
  | moved es rx hes hrx hl hc =>
    obtain h | h := h
    · exact .inl (hc.timedOut h)
    · refine hc.awaiting.imp id fun ha => ?_
      rw [ha, ← h, hl]
      obtain rfl | ⟨rfl, ha, -⟩ := hrx
      · rfl
      · rw [ha] at h
        have hzero : s.rxFifo.length = 0 := Nat.eq_zero_of_add_eq_zero_left h
        simp [Lane.unread, State.lane, hzero]
  | granted r q hp ht =>
    subst ht
    obtain h | h := h
    · exact absurd (hp.symm.trans h.1) nofun
    · rw [hp] at h
      exact .inr h
  | released r res hp hres ht =>
    subst ht
    obtain ⟨hp', a, ten, w, n, hq⟩ | h := h
    · obtain ⟨info, hres', -⟩ := (transferTrace_iff_timeout hq hp').1 htrace
      cases hres.symm.trans hres'
      exact absurd rfl (hn r (some info))
    · refine .inr (h.trans ?_)
      obtain hp | hp | hp := Phase.terminal_iff.1 hp <;> rw [hp] <;> rfl
  | addressed a ten w n hp hq hq' hl hsend hawait =>
    obtain h | h := h
    · exact absurd (hp.symm.trans h.1) nofun
    · rw [hp] at h
      refine .inr ?_
      rw [hawait, hl]
      exact h
  | pushed v hsend hq hl hawait hawait' =>
    have h := h.resolve_left (not_timedOut_of_sending hsend)
    have hmore : t.lane.unread = s.lane.unread + if (tokenOf v).cmd then 1 else 0 := by
      rw [hl]
      simp only [Lane.unread, State.lane, List.countP_append, List.countP_singleton]
      omega
    refine .inr ?_
    rw [hmore, hawait', h, hawait]
    exact Nat.zero_add _
  | popped v rest hawait hq hrx hl hawait' =>
    have h := h.resolve_left (not_timedOut_of_sending (Phase.sending_of_awaiting hawait))
    have hless : s.lane.unread = t.lane.unread + 1 := by
      rw [hl]
      simp only [Lane.unread, State.lane, hrx, List.length_cons]
      rfl
    refine .inr ?_
    rw [hawait, hless] at h
    rw [hawait']
    exact Nat.succ.inj h
  | taken tok rest htx hin hl hp hq =>
    refine hwire ?_ hp hq
    rw [hl]
    simp [Lane.unread, State.lane, htx, hin, List.countP_cons]
  | sent b hin hl hp hq =>
    refine hwire ?_ hp hq
    rw [hl]
    simp [Lane.unread, State.lane, hin]
  | received d b hin hb hl hp hq =>
    refine hwire ?_ hp hq
    rw [hl]
    simp only [Lane.unread, State.lane, hin]
    simp
    omega
  | ended hin hb hl hp hq =>
    refine hwire ?_ hp hq
    rw [hl]
    rfl

end

end Sys2Proof.Machine
end

section
/-! PROOFS. The runs of R238: what every run of the block's own agents that releases no Timeout keeps of the account of a
transfer, and the run from the end of one transfer to the next TAR write (43_transfer_engine.md R184, R202). -/

namespace Sys2Proof.Machine

section

variable {A : BitVec 10} {contents : List Byte} {s s₀ t : State}

/-! ### The ledger of an EXECUTE that has written TAR -/

/-- The account of the EXECUTE being served: all its traffic since the grant is since its TAR write (R201). -/
structure Ledger (A : BitVec 10) (contents : List Byte) (s : State) : Prop where
  account : Accounted A (fileOf contents) s.lane
  writes : writesAt 0x10 (sinceTar s.hist) = writesAt 0x10 (sinceGrant s.hist)
  reads : readsAt 0x10 (sinceTar s.hist) = readsAt 0x10 (sinceGrant s.hist)
  tar : ∀ a ten w n, s.req = some (.execute a ten w n) → s.regs.tar = tarValue a ten

/-- An EXECUTE that has written TAR had done so, or does so now. -/
theorem BusStep.addressed_cases (h : BusStep s t) (ht : t.Addressed) : s.Addressed ∨ ∃ a ten w n,
    s.phase = .addressSet ∧ s.req = some (.execute a ten w n) ∧ t.req = s.req ∧
      t.lane = { s.lane with tar := tarValue a ten, hist := s.hist ++ [.regWrite 0x04 (tarValue a ten)] } := by
  cases h with
  | moved es rx hes hrx hl hc => exact .inl (hc.addressed ht)
  | granted r q hp heq =>
    subst heq
    exact absurd ht (State.not_addressed rfl nofun)
  | released r res hp hres heq =>
    subst heq
    exact absurd ht (State.not_addressed rfl nofun)
  | addressed a ten w n hp hq hq' hl => exact .inr ⟨a, ten, w, n, hp, hq, hq', hl⟩
  | pushed v hsend => exact .inl (.inl hsend)
  | popped v rest hawait => exact .inl (.inl (Phase.sending_of_awaiting hawait))
  | taken tok rest htx hin hl hp hq => exact .inl ((State.Continues.of_same hp hq).addressed ht)
  | sent b hin hl hp hq => exact .inl ((State.Continues.of_same hp hq).addressed ht)
  | received d b hin hb hl hp hq => exact .inl ((State.Continues.of_same hp hq).addressed ht)
  | ended hin hb hl hp hq => exact .inl ((State.Continues.of_same hp hq).addressed ht)

/-- While an EXECUTE that has written TAR is served, no grant and no TAR write is recorded. -/
theorem BusStep.hist_of_addressed (h : BusStep s t) (hs : s.Addressed) (ht : t.Addressed) :
    ∃ es, (∀ e ∈ es, e.isTarWrite = false ∧ e.isGrant = false) ∧ t.hist = s.hist ++ es ∧ t.regs.tar = s.regs.tar ∧
      t.req = s.req := by
  have hone {e : Event} (he : e.isTarWrite = false ∧ e.isGrant = false) :
      ∀ e' ∈ [e], e'.isTarWrite = false ∧ e'.isGrant = false := List.forall_mem_singleton.2 he
  cases h with
  | moved es rx hes hrx hl hc =>
    refine ⟨es, fun e he => ?_, congrArg Lane.hist hl, congrArg Lane.tar hl, hc.req⟩
    exact ⟨(Event.of_aside (hes e he).1).1, (hes e he).2⟩
  | granted r q hp heq =>
    subst heq
    exact absurd ht (State.not_addressed rfl nofun)
  | released r res hp hres heq =>
    subst heq
    exact absurd ht (State.not_addressed rfl nofun)
  | addressed a ten w n hp =>
    exact absurd hs (State.not_addressed (hp ▸ rfl) (hp ▸ nofun))
  | pushed v hsend hq hl => exact ⟨_, hone ⟨rfl, rfl⟩, congrArg Lane.hist hl, congrArg Lane.tar hl, hq⟩
  | popped v rest hawait hq hrx hl => exact ⟨_, hone ⟨rfl, rfl⟩, congrArg Lane.hist hl, congrArg Lane.tar hl, hq⟩
  | taken tok rest htx hin hl hp hq =>
    refine ⟨_, fun e he => ?_, congrArg Lane.hist hl, congrArg Lane.tar hl, hq⟩
    split at he
    · cases he
    · exact hone ⟨rfl, rfl⟩ e he
  | sent b hin hl hp hq => exact ⟨_, hone ⟨rfl, rfl⟩, congrArg Lane.hist hl, congrArg Lane.tar hl, hq⟩
  | received d b hin hb hl hp hq => exact ⟨_, hone ⟨rfl, rfl⟩, congrArg Lane.hist hl, congrArg Lane.tar hl, hq⟩
  | ended hin hb hl hp hq => exact ⟨_, hone ⟨rfl, rfl⟩, congrArg Lane.hist hl, congrArg Lane.tar hl, hq⟩

theorem sinceGrant_append_all {es : List Event} (hes : ∀ e ∈ es, e.isGrant = false) (h : List Event) :
    sinceGrant (h ++ es) = sinceGrant h ++ es := by
  induction es generalizing h with
  | nil => rw [List.append_nil, List.append_nil]
  | cons e es ih =>
    obtain ⟨he, hes⟩ := List.forall_mem_cons.1 hes
    rw [List.append_cons h, ih hes, sinceGrant_append he, List.append_assoc]
    rfl

/-- The step that writes TAR opens the ledger: the traffic since the grant was none (R201). -/
theorem Ledger.of_tarWrite {a n : Nat} {ten : Bool} {w : List Byte} (hr : RunInvariant s) (htrace : TransferTrace s)
    (hleft : NothingLeft s) (hp : s.phase = .addressSet) (hq : s.req = some (.execute a ten w n)) (hq' : t.req = s.req)
    (hl : t.lane = { s.lane with tar := tarValue a ten, hist := s.hist ++ [.regWrite 0x04 (tarValue a ten)] }) :
    Ledger A contents t := by
  obtain ⟨htx, hin, hbusy⟩ := hr.quietBus (.inr hp)
  have hrx := hleft.rxFifo_eq_nil (fun h => absurd (hp.symm.trans h.1) nofun) (hp ▸ rfl)
  obtain ⟨-, -, -, hwrites, hreads⟩ := (transferTrace_iff_trafficAt hq hp (.inr rfl)).1 htrace
  have hhist : t.hist = s.hist ++ [.regWrite 0x04 (tarValue a ten)] := congrArg Lane.hist hl
  have hsince : sinceTar t.hist = [] := by
    rw [hhist, sinceTar_of_tarWrite]
    rfl
  have hgrant : sinceGrant t.hist = sinceGrant s.hist ++ [.regWrite 0x04 (tarValue a ten)] := by
    rw [hhist, sinceGrant_append rfl]
  refine ⟨?_, ?_, ?_, fun a' ten' w' n' h => ?_⟩
  · rw [hl]
    exact .of_tarWrite rfl htx hrx ⟨hin, hbusy⟩
  · rw [hsince, hgrant, writesAt_append, hwrites]
    rfl
  · rw [hsince, hgrant, readsAt_append, List.map_eq_nil_iff.1 hreads]
    rfl
  · cases (hq'.trans hq).symm.trans h
    exact congrArg Lane.tar hl

/-- A step that goes on with the EXECUTE keeps its ledger. -/
theorem Ledger.step (h : Ledger A contents s) (hstep : BusStep s t) (hfake : s.params.oracle = .fake A contents)
    (hleft : NothingLeft s) (hs : s.Addressed) (ht : t.Addressed) : Ledger A contents t := by
  obtain ⟨es, hes, hhist, htar, hq⟩ := hstep.hist_of_addressed hs ht
  have hsince : sinceTar t.hist = sinceTar s.hist ++ es := by rw [hhist, sinceTar_append fun e he => (hes e he).1]
  have hgrant : sinceGrant t.hist = sinceGrant s.hist ++ es := by
    rw [hhist, sinceGrant_append_all fun e he => (hes e he).2]
  refine ⟨h.account.step hstep hfake hleft fun hp => ?_, ?_, ?_, fun a ten w n h' => ?_⟩
  · exact absurd hs (State.not_addressed (hp ▸ rfl) (hp ▸ nofun))
  · rw [hsince, hgrant, writesAt_append, writesAt_append, h.writes]
  · rw [hsince, hgrant, readsAt_append, readsAt_append, h.reads]
  · exact htar.trans (h.tar a ten w n (hq.symm.trans h'))

/-! ### Runs that release no Timeout -/

/-- What the runs of R238 keep: the run invariant and the trace, the parameters of its premises, no byte left over, and
the ledger of the EXECUTE being served. -/
structure Orderly (A : BitVec 10) (contents : List Byte) (s : State) : Prop where
  run : RunInvariant s
  trace : TransferTrace s
  noAbort : s.params.mayAbort = false
  fake : s.params.oracle = .fake A contents
  nothingLeft : NothingLeft s
  ledger : s.Addressed → Ledger A contents s

theorem Orderly.busStep {m : Move} (ho : Orderly A contents s) (hm : m.own = true)
    (h : Machine.step (s.offer m) = .next t) : BusStep s t :=
  .of_step ho.run ho.noAbort hm h

theorem Orderly.step {m : Move} (ho : Orderly A contents s) (hm : m.own = true)
    (h : Machine.step (s.offer m) = .next t)
    (hn : ∀ r info, t.hist ≠ s.hist ++ [.release r (.err .timeout info)]) : Orderly A contents t := by
  have hbus := ho.busStep hm h
  have hparams : t.params = s.params := (step_retained h).params
  refine ⟨(ho.run.offer m).of_step hm h, ?_, hparams ▸ ho.noAbort, hparams ▸ ho.fake,
    ho.nothingLeft.step hbus ho.trace hn, fun ht => ?_⟩
  · exact TransferTrace.step (s := s.offer m) (ho.run.offer m) ho.trace hm h
  · obtain hs | ⟨a, ten, w, n, hp, hq, hq', hl⟩ := hbus.addressed_cases ht
    · exact (ho.ledger hs).step hbus ho.fake ho.nothingLeft hs ht
    · exact .of_tarWrite ho.run ho.trace ho.nothingLeft hp hq hq' hl

/-- The events release no Timeout. -/
def NoTimeout (es : List Event) : Prop :=
  ∀ r info, Event.release r (.err .timeout info) ∉ es

theorem NoTimeout.left {es fs : List Event} (h : NoTimeout (es ++ fs)) : NoTimeout es := fun r info hmem =>
  h r info (List.mem_append_left _ hmem)

theorem NoTimeout.right {es fs : List Event} (h : NoTimeout (es ++ fs)) : NoTimeout fs := fun r info hmem =>
  h r info (List.mem_append_right _ hmem)

theorem Orderly.step_of_noTimeout {m : Move} {es : List Event} (ho : Orderly A contents s) (hm : m.own = true)
    (h : Machine.step (s.offer m) = .next t) (hhist : t.hist = s.hist ++ es) (hn : NoTimeout es) :
    Orderly A contents t := by
  refine ho.step hm h fun r info heq => ?_
  rw [hhist, List.append_right_inj] at heq
  exact hn r info (heq ▸ List.mem_singleton_self _)

theorem runMoves_hist_prefix {ms : List Move} (h : runMoves ms s = .next t) : s.hist <+: t.hist :=
  runMoves_keeps (P := fun u => s.hist <+: u.hist) (ok := fun _ => True)
    (fun _ _ _ hu _ hstep => hu.trans (step_retained hstep).hist) (List.prefix_refl _) (fun _ _ => trivial) h

/-- The events of a run, split after its first step. -/
theorem hist_of_cons {m : Move} {ms : List Move} {u : State} {es : List Event}
    (hu : Machine.step (s.offer m) = .next u) (hrun : runMoves ms u = .next t) (hhist : t.hist = s.hist ++ es) :
    ∃ es₁ es₂, u.hist = s.hist ++ es₁ ∧ t.hist = u.hist ++ es₂ ∧ es = es₁ ++ es₂ := by
  obtain ⟨es₁, h₁⟩ : s.hist <+: u.hist := (step_retained hu).hist
  obtain ⟨es₂, h₂⟩ := runMoves_hist_prefix hrun
  refine ⟨es₁, es₂, h₁.symm, h₂.symm, ?_⟩
  rw [← h₂, ← h₁, List.append_assoc, List.append_right_inj] at hhist
  exact hhist.symm

theorem Orderly.run_of {ms : List Move} {es : List Event} (ho : Orderly A contents s) (hms : ∀ m ∈ ms, m.own = true)
    (h : runMoves ms s = .next t) (hhist : t.hist = s.hist ++ es) (hn : NoTimeout es) : Orderly A contents t := by
  induction ms generalizing s es with
  | nil => exact Host.Outcome.next.inj h ▸ ho
  | cons m ms ih =>
    obtain ⟨hm, hms⟩ := List.forall_mem_cons.1 hms
    obtain ⟨u, hu, hrun⟩ := runMoves_cons.1 h
    obtain ⟨es₁, es₂, h₁, h₂, rfl⟩ := hist_of_cons hu hrun hhist
    exact ih (ho.step_of_noTimeout hm hu h₁ hn.left) hms hrun h₂ hn.right

/-! ### From the end of a transfer to the next TAR write -/

/-- Since `s₀`, in which an EXECUTE has ended, nothing has been pushed and no TAR written. -/
structure RestsSince (A : BitVec 10) (contents : List Byte) (s₀ s : State) : Prop where
  account : Accounted A (fileOf contents) s.lane
  still : s.phase.sending = false
  tar : s.regs.tar = s₀.regs.tar
  hist : ∃ es, (∀ e ∈ es, e.isTarWrite = false) ∧ pushedPayloads es = [] ∧ s.hist = s₀.hist ++ es

/-- A step of a state in which no EXECUTE pushes: it writes TAR on an idle bus, or it pushes nothing either. -/
theorem BusStep.tarWrite_or_rests (h : BusStep s t) (hs : s.phase.sending = false) :
    (s.phase = .addressSet ∧ ∃ v, t.hist = s.hist ++ [.regWrite 0x04 v]) ∨
      (t.phase.sending = false ∧ t.regs.tar = s.regs.tar ∧
        ∃ es, (∀ e ∈ es, e.isTarWrite = false) ∧ pushedPayloads es = [] ∧ t.hist = s.hist ++ es) := by
  have hone {e : Event} (he : e.isTarWrite = false) (hw : pushedPayloads [e] = [])
      (hh : t.hist = s.hist ++ [e]) : ∃ es, (∀ e ∈ es, e.isTarWrite = false) ∧ pushedPayloads es = [] ∧
        t.hist = s.hist ++ es := ⟨[e], List.forall_mem_singleton.2 he, hw, hh⟩
  cases h with
  | moved es rx hes hrx hl hc =>
    obtain ⟨htars, -, hpushed, -⟩ := of_all_aside fun e he => (hes e he).1
    refine .inr ⟨Bool.eq_false_iff.2 fun ht => ?_, congrArg Lane.tar hl, es, htars, hpushed, congrArg Lane.hist hl⟩
    exact absurd (hs.symm.trans (hc.sending ht)) nofun
  | granted r q hp ht =>
    subst ht
    exact .inr ⟨rfl, rfl, hone (e := .grant r q) rfl rfl rfl⟩
  | released r res hp hres ht =>
    subst ht
    exact .inr ⟨rfl, rfl, hone (e := .release r res) rfl rfl rfl⟩
  | addressed a ten w n hp hq hq' hl => exact .inl ⟨hp, _, congrArg Lane.hist hl⟩
  | pushed v hsend => exact absurd (hs.symm.trans hsend) nofun
  | popped v rest hawait => exact absurd (hs.symm.trans (Phase.sending_of_awaiting hawait)) nofun
  | taken tok rest htx hin hl hp hq =>
    refine .inr ⟨hp ▸ hs, congrArg Lane.tar hl, _, fun e he => ?_, ?_, congrArg Lane.hist hl⟩
    · split at he
      · cases he
      · exact List.mem_singleton.1 he ▸ rfl
    · split <;> rfl
  | sent b hin hl hp hq => exact .inr ⟨hp ▸ hs, congrArg Lane.tar hl, hone rfl rfl (congrArg Lane.hist hl)⟩
  | received d b hin hb hl hp hq => exact .inr ⟨hp ▸ hs, congrArg Lane.tar hl, hone rfl rfl (congrArg Lane.hist hl)⟩
  | ended hin hb hl hp hq => exact .inr ⟨hp ▸ hs, congrArg Lane.tar hl, hone rfl rfl (congrArg Lane.hist hl)⟩

/-- What a transfer left, until the next TAR write: the run rests throughout, or rests until a TAR write, which finds
nothing queued and a free bus. By induction on the moves. -/
theorem RestsSince.run {ms : List Move} {es : List Event} (hk : RestsSince A contents s₀ s) (ho : Orderly A contents s)
    (hms : ∀ m ∈ ms, m.own = true) (h : runMoves ms s = .next t) (hhist : t.hist = s.hist ++ es)
    (hn : NoTimeout es) : RestsSince A contents s₀ t ∨ ∃ u v fs, RestsSince A contents s₀ u ∧ u.txFifo = [] ∧
      u.wire.inflight = none ∧ t.hist = u.hist ++ .regWrite 0x04 v :: fs := by
  induction ms generalizing s es with
  | nil => exact .inl (Host.Outcome.next.inj h ▸ hk)
  | cons m ms ih =>
    obtain ⟨hm, hms⟩ := List.forall_mem_cons.1 hms
    obtain ⟨u, hu, hrun⟩ := runMoves_cons.1 h
    obtain ⟨es₁, es₂, h₁, h₂, rfl⟩ := hist_of_cons hu hrun hhist
    have hbus := ho.busStep hm hu
    obtain ⟨hp, v, hv⟩ | ⟨hstill, htar, fs, hfs, hnone, hh⟩ := hbus.tarWrite_or_rests hk.still
    · obtain ⟨htx, hin, -⟩ := ho.run.quietBus (.inr hp)
      refine .inr ⟨s, v, es₂, hk, htx, hin, ?_⟩
      rw [h₂, hv, List.append_assoc]
      rfl
    · have hk' : RestsSince A contents s₀ u := by
        obtain ⟨gs, hgs, hnone', hh'⟩ := hk.hist
        refine ⟨hk.account.step hbus ho.fake ho.nothingLeft fun _ v hv => ?_, hstill, htar.trans hk.tar, gs ++ fs,
          List.forall_mem_append.2 ⟨hgs, hfs⟩, ?_, ?_⟩
        · rw [hh, List.append_right_inj] at hv
          exact absurd (hfs (.regWrite 0x04 v) (hv ▸ List.mem_singleton_self _)) nofun
        · rw [pushedPayloads_append, hnone', hnone]
          rfl
        · rw [hh, hh', List.append_assoc]
      exact ih hk' (ho.step_of_noTimeout hm hu h₁ hn.left) hms hrun h₂ hn.right

end

end Sys2Proof.Machine
end

section
/-! PROOFS. The round-trip laws over runs (45_peripheral_session.md R238): what a write helper's transfer stores, and what
a read helper's transfer for the same registers receives after it. -/

namespace Sys2Proof.Machine

/-! ### The fake peripheral's block -/

section

variable {A : BitVec 10} {p : Fake} {reg : Byte} {es : List Event}

/-- A transfer that writes the index `reg` and then a block, in one bus transaction: the block stands from `reg` on, and
each of its bytes is one store into it. -/
theorem Fake.through_block {bs : List Byte} (hlen : bs.length ≤ 256)
    (hes : onWire es = .wStart A :: (reg :: bs).map (.wTx A)) :
    (∀ k (hk : k < bs.length), (p.through A es).mem (reg + BitVec.ofNat 8 k) = bs[k]) ∧
      ((Fake.stores A p es).filter (inBlock reg bs.length)).length = bs.length := by
  have hsplit : onWire es = [.wStart A, .wTx A reg] ++ bs.map (.wTx A) := hes
  have hindex : Fake.stores A p [.wStart A, .wTx A reg] = [] := by simp [stores, Fake.on]
  rw [← Fake.through_onWire, ← Fake.stores_onWire, hsplit, Fake.through_append, Fake.stores_append, hindex,
    Fake.through_index, List.nil_append]
  obtain ⟨hcount, hstores⟩ := Fake.stores_writes (A := A) (p := { p with ptr := reg, fresh := false }) rfl bs
  refine ⟨fun k hk => Fake.mem_through_writes (p := { p with ptr := reg, fresh := false }) rfl hlen hk, ?_⟩
  rw [List.filter_eq_self.2 fun st hst => ?_, hcount]
  obtain ⟨k, hk, heq⟩ := hstores st hst
  have hin := inBlock_of_offset (reg := reg) hlen hk st.2
  rwa [← heq] at hin

/-- A block into which nothing is stored stays as it is. -/
theorem Fake.mem_of_no_block_store {n k : Nat} (hn : n ≤ 256) (hk : k < n)
    (hes : (Fake.stores A p es).filter (inBlock reg n) = []) :
    (p.through A es).mem (reg + BitVec.ofNat 8 k) = p.mem (reg + BitVec.ofNat 8 k) := by
  refine Fake.mem_of_no_store fun st hst heq => ?_
  have hin := inBlock_of_offset (reg := reg) hn hk st.2
  rw [← heq] at hin
  exact List.filter_eq_nil_iff.1 hes st hst hin

/-- A block written stands as long as no more is stored into it than the block itself (R238). -/
theorem Fake.mem_after_block {bs : List Byte} {fs gs : List Event} (hlen : bs.length ≤ 256)
    (hes : onWire es = .wStart A :: (reg :: bs).map (.wTx A))
    (hstores : ((Fake.stores A p (es ++ (fs ++ gs))).filter (inBlock reg bs.length)).length ≤ bs.length) {k : Nat}
    (hk : k < bs.length) : (p.through A (es ++ fs)).mem (reg + BitVec.ofNat 8 k) = bs[k] := by
  obtain ⟨hblock, hcount⟩ := Fake.through_block (p := p) hlen hes
  rw [Fake.stores_append, Fake.stores_append, List.filter_append, List.filter_append, List.length_append,
    List.length_append, hcount] at hstores
  have hnone : (Fake.stores A (p.through A es) fs).filter (inBlock reg bs.length) = [] :=
    List.length_eq_zero_iff.1 (by omega)
  rw [Fake.through_append, Fake.mem_of_no_block_store hlen hk hnone, hblock k hk]

end

/-! ### The transfers of the session helpers -/

/-- TAR of a 7-bit address is that address in 7-bit mode (R84, log entry 22). -/
theorem target_of_tarValue {l : Lane} {A : BitVec 7} (h : l.tar = tarValue A.toNat false) :
    l.tenBit = false ∧ l.target = BitVec.setWidth 10 A := by
  have hten : l.tenBit = false := by
    rw [Lane.tenBit, h, tarValue_getLsbD]
    rfl
  refine ⟨hten, ?_⟩
  have haddr : l.tar.extractLsb' 0 7 = A := by
    refine BitVec.eq_of_getLsbD_eq fun k hk => ?_
    rw [h]
    have h10 : k < 10 := by omega
    simp [hk, h10, tarValue_getLsbD]
  rw [Lane.target, hten, haddr]
  rfl

theorem payloads_of_pushes (w : List Byte) (n : Nat) :
    (pushes w n).map (fun v => (tokenOf v).payload) = w.map some ++ List.replicate n none := by
  have hwrite : (fun b => (tokenOf (writeTokenValue b)).payload) = some := by
    funext b
    rw [tokenOf_writeTokenValue]
    rfl
  have hread : (tokenOf readTokenValue).payload = none := by decide
  rw [pushes, List.map_append, List.map_map, List.map_replicate, hread]
  exact congrArg (List.map · w ++ _) hwrite

section

variable {A : BitVec 10} {contents : List Byte} {s u t : State}

/-- An EXECUTE that is done: its tokens were all pushed, and its result is the bytes popped, none left over. -/
theorem Orderly.of_done {a n : Nat} {ten : Bool} {w : List Byte} (ho : Orderly A contents s) (hp : s.phase = .done)
    (hq : s.req = some (.execute a ten w n)) : Ledger A contents s ∧
      pushedPayloads (sinceTar s.hist) = w.map some ++ List.replicate n none ∧
      (wireEvents s.hist).filterMap Event.received = s.rbuf ∧ s.rbuf.length = n ∧ s.result = some (.ok s.rbuf) := by
  have hledger := ho.ledger (.inr ⟨hp, a, ten, w, n, hq⟩)
  obtain ⟨hlen, hres, -, -, hwrites, hreads⟩ := (transferTrace_iff_done hq hp).1 ho.trace
  have hrx : s.lane.rxFifo = [] :=
    ho.nothingLeft.rxFifo_eq_nil (fun h => absurd (hp.symm.trans h.1) nofun) (hp ▸ rfl)
  refine ⟨hledger, ?_, ?_, hlen, hres⟩
  · rw [pushedPayloads, hledger.writes, hwrites, payloads_of_pushes]
  · have hbytes := hledger.account.bytes
    rw [hrx, List.append_nil, poppedBytes] at hbytes
    exact hbytes.trans ((congrArg _ hledger.reads).trans hreads)

theorem LockInvariant.req_eq_none (hi : LockInvariant s) (hp : s.phase = .idle) : s.req = none := by
  obtain ⟨hlock, hactive, hfree⟩ := hi
  have hnone : s.lockOwner = none := by
    by_contra hsome
    obtain ⟨r, hr⟩ := Option.ne_none_iff_exists'.1 hsome
    obtain ⟨q, hq⟩ := (hlock r).1 hr
    obtain ⟨-, -, hbusy⟩ := hactive r q hq
    exact hbusy hp
  exact (hfree.1 hnone).2.1

/-- Where nothing is served, queued, in flight or unread, all is in order. -/
theorem Orderly.of_idle {A : BitVec 10} (hr : RunInvariant s) (hp : s.phase = .idle) (hs : SerialIdle s)
    (ha : s.params.mayAbort = false) (hf : s.params.oracle = .fake A contents) : Orderly A contents s := by
  have hreq := hr.lock.req_eq_none hp
  obtain ⟨htx, hrx, hin, -⟩ := hs
  refine ⟨hr, transferTrace_of_noExecute (by rw [hreq]; exact nofun), ha, hf, .inr ?_, fun h => ?_⟩
  · rw [hp, Lane.unread, State.lane, htx, hrx, hin]
    rfl
  · exact absurd h (State.not_addressed (hp ▸ rfl) (hp ▸ nofun))

/-- What a transfer that only writes has made of the wire up to the next TAR write, in one bus transaction. -/
theorem RestsSince.wireEvents_eq {a : BitVec 10} {w : List Byte} (hk : RestsSince a contents s u)
    (htx : u.txFifo = []) (hin : u.wire.inflight = none) (htarget : u.lane.target = a) (hne : w ≠ [])
    (hpushed : pushedPayloads (sinceTar s.hist) = w.map some) (hone : (sinceTar u.hist).count (.wStart a) ≤ 1) :
    wireEvents u.hist = .wStart a :: w.map (.wTx a) := by
  obtain ⟨es, hes, hnone, hhist⟩ := hk.hist
  have hdone : (wireEvents u.hist).filterMap Event.completes = w.map some := by
    have hpending : u.lane.pending = [] := by
      rw [Lane.pending, State.lane, htx, hin]
      rfl
    have hsince : sinceTar u.lane.hist = sinceTar s.hist ++ es := (congrArg sinceTar hhist).trans (sinceTar_append hes)
    have htokens := hk.account.tokens
    rw [hpending, List.append_nil, hsince, pushedPayloads_append, hpushed, hnone, List.append_nil] at htokens
    exact htokens.symm
  obtain ⟨fs, hfs⟩ : ∃ fs, wireEvents u.hist = .wStart a :: fs := by
    refine htarget ▸ hk.account.begun.resolve_left fun hnil => hne ?_
    have hnil : wireEvents u.hist = [] := hnil.1
    rw [hnil] at hdone
    exact List.map_eq_nil_iff.1 hdone.symm
  have haddr : ∀ e ∈ wireEvents u.hist, e.address = some a := htarget ▸ hk.account.target
  have hcount : (wireEvents u.hist).count (.wStart a) ≤ 1 :=
    (List.count_filter (p := fun e => e.address.isSome) (l := sinceTar u.hist) (a := .wStart a) rfl).trans_le hone
  rw [hfs] at hdone haddr hcount ⊢
  rw [List.count_cons_self] at hcount
  have hno := List.count_eq_zero.1 (Nat.le_zero.1 (Nat.le_of_succ_le_succ hcount))
  rw [eq_writes_of_completes (fun e he => haddr e (List.mem_cons_of_mem _ he)) hno hdone]

/-- A run that rests after a write transfer does not end in a read transfer: that one pushes read tokens. -/
theorem pushes_of_write_ne_of_read {reg : Byte} {bs : List Byte} (hne : bs ≠ []) (n : Nat) :
    (reg :: bs).map some ≠ [reg].map some ++ List.replicate n none := by
  obtain ⟨b, bs, rfl⟩ := List.exists_cons_of_ne_nil hne
  cases n <;> simp [List.replicate_succ]

/-- What a transfer that writes an index and then reads receives is what stands from there on at its TAR write. -/
theorem Orderly.result_of_read {A : BitVec 7} {reg : Byte} {bs : List Byte}
    (ho : Orderly (BitVec.setWidth 10 A) contents s) (hp : s.phase = .done)
    (hq : s.req = some (.execute A.toNat false [reg] bs.length))
    (hblock : ∀ k (hk : k < bs.length), (Fake.after (BitVec.setWidth 10 A) (fileOf contents) (upToTar s.hist)).mem
      (reg + BitVec.ofNat 8 k) = bs[k]) : s.result = some (.ok bs) := by
  obtain ⟨hledger, hpushed, hreceived, hlen, hres⟩ := ho.of_done hp hq
  obtain ⟨hten, htarget⟩ := target_of_tarValue (l := s.lane) (A := A) (hledger.tar _ _ _ _ hq)
  have haddr : ∀ e ∈ wireEvents s.hist, e.address = some (BitVec.setWidth 10 A) := htarget ▸ hledger.account.target
  have hans := hledger.account.answers hten
  have hdone : (wireEvents s.hist).filterMap Event.completes <+: some reg :: List.replicate bs.length none :=
    ⟨s.lane.pending, hledger.account.tokens.symm.trans hpushed⟩
  suffices hbytes : s.rbuf = bs by rw [hres, hbytes]
  refine List.ext_getElem hlen fun k hk hk' => ?_
  have hget : ((wireEvents s.hist).filterMap Event.received)[k]? = some s.rbuf[k] := by
    rw [hreceived, List.getElem?_eq_getElem hk]
  rw [← hblock k hk']
  obtain ⟨hnil, -⟩ | ⟨fs, hfs⟩ := hledger.account.begun
  · rw [show wireEvents s.hist = [] from hnil] at hget
    cases hget
  · rw [htarget] at hfs
    rw [show wireEvents s.hist = _ from hfs] at haddr hdone hget
    rw [show wireEvents s.lane.hist = _ from hfs] at hans
    refine (Fake.received_of_index (fun e he => haddr e (List.mem_cons_of_mem _ he)) hdone ?_ hans.2 hget).trans ?_ <;>
      simp only [Fake.on, if_true]
    rfl

/-- The two laws of R238 for any write of a block and any read of the same block. -/
theorem RoundTripPremises.result_eq {A : BitVec 7} {reg : Byte} {bs : List Byte} {s₁ s₂ s₃ : State}
    (h : RoundTripPremises A contents reg bs.length s₁ s₂ s₃) (hlen : bs.length ≤ 256) (hne : bs ≠ [])
    (hp₂ : s₂.phase = .done) (hq₂ : s₂.req = some (.execute A.toNat false (reg :: bs) 0)) (hp₃ : s₃.phase = .done)
    (hq₃ : s₃.req = some (.execute A.toNat false [reg] bs.length)) : s₃.result = some (.ok bs) := by
  obtain ⟨ms₁, hms₁, hrun₁⟩ := h.first
  obtain ⟨ms₂, hms₂, hrun₂⟩ := h.second
  obtain ⟨es₁, hes₁⟩ := runMoves_hist_prefix hrun₁
  obtain ⟨es₂, hes₂⟩ := runMoves_hist_prefix hrun₂
  have hn : NoTimeout (es₁ ++ es₂) := by
    have hnone := h.noTimeout
    rwa [← hes₂, ← hes₁, List.append_assoc, List.drop_left] at hnone
  have ho₁ := Orderly.of_idle h.invariant h.idle h.nothingStale h.noAbort h.fake
  have ho₂ := ho₁.run_of hms₁ hrun₁ hes₁.symm hn.left
  have ho₃ := ho₂.run_of hms₂ hrun₂ hes₂.symm hn.right
  obtain ⟨hledger, hpushed, -⟩ := ho₂.of_done hp₂ hq₂
  rw [List.replicate_zero, List.append_nil] at hpushed
  have hrest : RestsSince (BitVec.setWidth 10 A) contents s₂ s₂ :=
    ⟨hledger.account, hp₂ ▸ rfl, rfl, [], nofun, rfl, (List.append_nil _).symm⟩
  obtain hend | ⟨u, v, fs, hk, htx, hin, hhist⟩ := hrest.run ho₂ hms₂ hrun₂ hes₂.symm hn.right
  · obtain ⟨es, hes, hnone, hhist⟩ := hend.hist
    obtain ⟨-, hpushed₃, -⟩ := ho₃.of_done hp₃ hq₃
    rw [hhist, sinceTar_append hes, pushedPayloads_append, hpushed, hnone, List.append_nil] at hpushed₃
    exact absurd hpushed₃ (pushes_of_write_ne_of_read hne _)
  · obtain ⟨es, hes, -, hu⟩ := hk.hist
    have hsince : sinceTar u.hist = sinceTar s₂.hist ++ es := by rw [hu, sinceTar_append hes]
    have hbase : upToTar u.hist = upToTar s₂.hist := by rw [hu, upToTar_append hes]
    have hsplit : sinceTar s₂.hist ++ s₃.hist.drop s₂.hist.length = sinceTar u.hist ++ .regWrite 0x04 v :: fs := by
      rw [hhist, hu, List.append_assoc, List.drop_left, ← List.append_assoc, ← hsince, hu]
    have hone := h.oneTransaction
    rw [hsplit, takeWhile_before_tarWrite fun e => isTarWrite_of_mem_sinceTar] at hone
    have htarget := (target_of_tarValue (l := u.lane) (hk.tar.trans (hledger.tar _ _ _ _ hq₂))).2
    have hwire := hk.wireEvents_eq htx hin htarget (List.cons_ne_nil reg bs) hpushed hone
    refine ho₃.result_of_read hp₃ hq₃ fun k hk => ?_
    have hupTo : upToTar s₃.hist = upToTar s₂.hist ++ (sinceTar u.hist ++ .regWrite 0x04 v :: upToTar fs) := by
      rw [hhist, upToTar_of_tarWrite, ← hbase, ← List.append_assoc, upToTar_append_sinceTar]
    have hother := h.noOtherStore
    rw [hsplit, ← upToTar_append_sinceTar fs, ← List.cons_append] at hother
    rw [hupTo, Fake.after_append]
    exact Fake.mem_after_block hlen hwire hother hk

end

/-- Settles O56: the write helper's request is an EXECUTE of the index and the bytes, the read helper's of the index and
as many reads (`RoundTripPremises.result_eq`), and the call returns the bytes of its result. -/
theorem roundTripLaws : Obligations.RoundTripLaws := by
  intro A contents reg bs write read qw qr s₁ s₂ s₃ h hlen hwrite hread hqw hqr hp₂ hq₂ hp₃ hq₃
  obtain ⟨hne, rfl⟩ : bs ≠ [] ∧ qw = .execute A.toNat false (reg :: bs) 0 := by
    obtain rfl | ⟨v, rfl, rfl⟩ := hwrite
    · cases bs with
      | nil => cases hqw
      | cons b bs => exact ⟨List.cons_ne_nil b bs, (Except.ok.inj hqw).symm⟩
    · exact ⟨List.cons_ne_nil v [], (Except.ok.inj hqw).symm⟩
  obtain rfl : qr = .execute A.toNat false [reg] bs.length := by
    obtain rfl | ⟨hone, rfl⟩ := hread
    · rw [expandHelper, if_neg (mt List.length_eq_zero_iff.1 hne)] at hqr
      exact (Except.ok.inj hqr).symm
    · rw [hone]
      exact (Except.ok.inj hqr).symm
  refine ⟨.ok bs, h.result_eq hlen hne hp₂ hq₂ hp₃ hq₃, fun hr => ?_, fun v hv hr => ?_⟩
  · rw [hr]
    rfl
  · rw [hr, hv]
    rfl

end Sys2Proof.Machine
end

section
/-! PROOFS. The interrupt output (60_exceptions.md R246, R247): which sources raise it. -/

namespace Sys2Proof.Machine

/-- Bit `k` of INTR_STAT is one of the five sources, raw and enabled (R27, R246). -/
theorem intrStatBits_getLsbD_eq_true (s : State) (k : Nat) :
    s.intrStatBits.getLsbD k = true ↔ k < 5 ∧ s.rawBits.getLsbD k = true ∧ s.regs.intrMask.getLsbD k = true := by
  have hfive : BitVec.getLsbD 0x1F#32 k = decide (k < 5) := by
    rw [show 0x1F#32 = (BitVec.allOnes 5).setWidth 32 from rfl, BitVec.getLsbD_setWidth, BitVec.getLsbD_allOnes,
      ← Bool.decide_and, decide_eq_decide]
    omega
  simp [State.intrStatBits, hfive, and_comm, and_assoc]

theorem irq_eq_true (s : State) : s.irq = true ↔ ∃ k, s.intrStatBits.getLsbD k = true := by
  rw [State.irq, bne_iff_ne]
  refine ⟨fun hne => ?_, fun ⟨k, hk⟩ hzero => ?_⟩
  · by_contra hnone
    exact hne (BitVec.eq_of_getLsbD_eq fun k _ => by simpa using fun hk => hnone ⟨k, hk⟩)
  · simp [hzero] at hk

/-- A mask whose bits 4:0 are zero enables no source. -/
theorem intrMask_getLsbD_of_clear {s : State} (h : s.regs.intrMask.extractLsb' 0 5 = 0#5) {k : Nat} (hk : k < 5) :
    s.regs.intrMask.getLsbD k = false := by
  simpa [hk] using congrArg (BitVec.getLsbD · k) h

/-- Settles O53: the output is the OR of INTR_STAT's bits (`irq_eq_true`), and each of them is a source that is raw and
enabled. -/
theorem interruptOutput : Obligations.InterruptOutput := by
  intro s
  have hirq : s.irq = true ↔ ∃ k, k < 5 ∧ s.rawBits.getLsbD k = true ∧ s.regs.intrMask.getLsbD k = true := by
    simp only [irq_eq_true, intrStatBits_getLsbD_eq_true]
  refine ⟨fun hclear => ?_, hirq⟩
  rw [← Bool.not_eq_true, hirq]
  rintro ⟨k, hk, -, hmask⟩
  rw [intrMask_getLsbD_of_clear hclear hk] at hmask
  cases hmask

end Sys2Proof.Machine
end

section
/-! PROOFS. What a register access does (60_exceptions.md R244, R245, 20_memory.md R67): one fault reason and nothing
else, or its recorded effect on the register, the FIFOs and the sticky bits. -/

namespace Sys2Proof.Machine

/-- An instruction with a REG word is the read or the write of the register at the word's offset (R80, R89). -/
theorem eq_ofRead_or_ofWrite_of_encode {i : Instr} {word : BitVec 13} {v : Word} (h : encode i = .reg word v) :
    ∃ r : Reg, (word = regWord false r.offset ∧ i = .ofRead r) ∨
      (word = regWord true r.offset ∧ Instr.ofWrite r v = .ok i) :=
  decode_reg_eq_ok (h ▸ decodeEncodeAgree i)

/-- A write has no fault only where it sets no reserved bit (R64, R68), so it stores its value as it is. -/
theorem Reg.and_writeMask_of_noFault {r : Reg} {v : Word} {s : State} (h : r.firstWriteFault v s = none) :
    v &&& r.writeMask = v := by
  refine Reg.and_writeMask_of_checked ?_
  by_contra hv
  rw [Reg.firstWriteFault, if_pos (Reg.setsReserved_iff.2 hv)] at h
  split_ifs at h

section

variable {r : Reg} {v : Word} {s : State}

/-! ### The effect of a read (R67) -/

theorem Reg.readEffect_hist : (r.readEffect s).hist = s.hist := by
  obtain ⟨rx, st, h⟩ := r.readEffect_eq s
  rw [h]

theorem Reg.readEffect_txFifo : (r.readEffect s).txFifo = s.txFifo := by
  obtain ⟨rx, st, h⟩ := r.readEffect_eq s
  rw [h]

theorem Reg.readEffect_sticky (hd : r ≠ .dataCmd) (hc : r ≠ .clrIntr) : (r.readEffect s).sticky = s.sticky := by
  rw [Reg.readEffect_eq_self hd hc]

theorem Reg.readEffect_rxFifo (hd : r ≠ .dataCmd) : (r.readEffect s).rxFifo = s.rxFifo := by
  cases r with
  | dataCmd => exact absurd rfl hd
  | _ => rfl

/-! ### The effect of a write (R101 to R126) -/

theorem Reg.writeEffect_rdata : (r.writeEffect v s).rdata = s.rdata := by
  obtain ⟨tx, rx, st, hist, h⟩ := r.writeEffect_eq v s
  rw [h]

theorem Reg.writeEffect_drawCount : (r.writeEffect v s).drawCount = s.drawCount := by
  obtain ⟨tx, rx, st, hist, h⟩ := r.writeEffect_eq v s
  rw [h]

/-- A write of ENABLE is a flush exactly where it clears bit 0 (R126). -/
theorem writeEffect_enable_eq : Reg.writeEffect .enable v s = { s with
    regs := s.regs.set .enable (v &&& Reg.writeMask .enable)
    txFifo := if v.getLsbD 0 then s.txFifo else []
    rxFifo := if v.getLsbD 0 then s.rxFifo else []
    hist := s.hist ++ if v.getLsbD 0 then [] else [.flush] } := by
  unfold Reg.writeEffect
  cases hv : v.getLsbD 0 <;> simp only [State.record, if_true, Bool.false_eq_true, if_false, List.append_nil]

theorem Reg.writeEffect_sticky (hd : r ≠ .dataCmd) : (r.writeEffect v s).sticky = s.sticky := by
  cases r with
  | dataCmd => exact absurd rfl hd
  | enable => rw [writeEffect_enable_eq]
  | _ => rfl

theorem Reg.writeEffect_txFifo (hd : r ≠ .dataCmd) (he : r ≠ .enable) : (r.writeEffect v s).txFifo = s.txFifo := by
  cases r with
  | dataCmd => exact absurd rfl hd
  | enable => exact absurd rfl he
  | _ => rfl

theorem Reg.writeEffect_rxFifo (he : r ≠ .enable) : (r.writeEffect v s).rxFifo = s.rxFifo := by
  cases r with
  | dataCmd =>
    obtain ⟨tx, st, h⟩ := writeEffect_dataCmd_eq v s
    rw [h]
  | enable => exact absurd rfl he
  | _ => rfl

/-- Only the flush of an ENABLE write records an event of its own (R126). -/
theorem Reg.writeEffect_hist :
    (r.writeEffect v s).hist = s.hist ++ if r = .enable ∧ v.getLsbD 0 = false then [.flush] else [] := by
  cases r with
  | dataCmd =>
    obtain ⟨tx, st, h⟩ := writeEffect_dataCmd_eq v s
    simp [h]
  | enable =>
    rw [writeEffect_enable_eq]
    cases v.getLsbD 0 <;> rfl
  | _ => exact (List.append_nil _).symm

end

/-- Settles O15: an instruction with a REG word reads or writes the word's register, and either the access has a
fault or its effect is the one the lemmas on `Reg.readEffect` and `Reg.writeEffect` give. -/
theorem accessOutcomes : Obligations.AccessOutcomes := by
  intro i word v s hi hs
  obtain ⟨r, ⟨rfl, rfl⟩ | ⟨rfl, hw⟩⟩ := eq_ofRead_or_ofWrite_of_encode hi
  · obtain ⟨hoff, hwe⟩ := regWord_fields false r.offset r.offset_lt_window
    rw [hwe]
    cases hf : r.readFault s with
    | some x => exact ⟨r, _, hoff.symm, (exec_ofRead r s).trans (runRead_of_readFault hs hf), .inl ⟨x, rfl⟩⟩
    | none =>
      refine ⟨r, _, hoff.symm, exec_ofRead_of_noFault hs hf, .inr ⟨?_, fun hd hc => ?_, ?_⟩⟩
      · obtain ⟨rx, st, heffect⟩ := r.readEffect_eq s
        rw [heffect]
        rfl
      · exact Reg.readEffect_sticky hd hc
      · exact ⟨congrArg (· ++ [_]) Reg.readEffect_hist, r.readEffect_regs s, rfl, Reg.readEffect_txFifo,
          Reg.readEffect_rxFifo⟩
  · obtain ⟨hoff, hwe⟩ := regWord_fields true r.offset r.offset_lt_window
    rw [hwe]
    have hexec := (exec_of_ofWrite hw).2 s
    cases hf : r.firstWriteFault v s with
    | some x => exact ⟨r, _, hoff.symm, hexec.trans (runWrite_of_firstWriteFault hs hf), .inl ⟨x, rfl⟩⟩
    | none =>
      refine ⟨r, _, hoff.symm, hexec.trans (runWrite_next.2 ⟨hs, .inr ⟨hf, rfl⟩⟩), .inr ⟨?_, fun hd _ => ?_, ?_⟩⟩
      · obtain ⟨tx, rx, st, hist, heffect⟩ := r.writeEffect_eq v s
        rw [heffect]
        rfl
      · exact Reg.writeEffect_sticky hd
      · refine ⟨congrArg (· ++ [_]) Reg.writeEffect_hist, ?_, Reg.writeEffect_rdata, Reg.writeEffect_drawCount,
          Reg.writeEffect_txFifo, Reg.writeEffect_rxFifo⟩
        rw [State.record_regs, r.writeEffect_regs, Reg.and_writeMask_of_noFault hf]

end Sys2Proof.Machine
end

section
/-! PROOFS. The run invariant (60_exceptions.md R274) and the stale received bytes (70_reset_and_hazards.md R267) under
every step of the block's own agents: which steps change how many read tokens are pushed and not popped, and which change
whether the engine waits for one. -/

namespace Sys2Proof.Machine

/-- Settles O48: a step leaves the engine as it is, is the engine's own, a grant or a release
(`RunInvariant.of_step`), and each keeps the invariant. -/
theorem ownAgentsNeverFault : Obligations.OwnAgentsNeverFault :=
  fun _ _ hr ho h => hr.of_step ho h

/-! ### The count of the stale bytes -/

/-- The unread bytes that the engine itself waits for or is about to pop. -/
def State.awaitedBytes (s : State) : Nat :=
  if s.phase.awaiting then 1 else 0

/-- The step from `s` to `t` changes the unread bytes as it changes those awaited. -/
def State.Balances (s t : State) : Prop :=
  t.unreadBytes + s.awaitedBytes = s.unreadBytes + t.awaitedBytes

theorem Phase.awaiting_iff {p : Phase} : p.awaiting = true ↔ p = .rdPollRx ∨ p = .rdPop := by
  cases p <;> decide

theorem State.staleBytes_eq (s : State) : s.staleBytes = s.unreadBytes - s.awaitedBytes := by
  simp only [State.staleBytes, State.awaitedBytes, Phase.awaiting_iff]

theorem SerialIdle.staleBytes_eq_zero {s : State} (h : SerialIdle s) : s.staleBytes = 0 := by
  obtain ⟨htx, hrx, hin, -⟩ := h
  simp [State.staleBytes, State.unreadBytes, htx, hrx, hin]

@[simp] theorem State.staleBytes_advance (s : State) : s.advance.staleBytes = s.staleBytes := by
  simp [State.staleBytes, State.unreadBytes]

theorem readTimesOut_iff {s t : State} : readTimesOut s t = true ↔ s.phase = .rdPollRx ∧ t.phase = .timeout := by
  rw [readTimesOut, Bool.and_eq_true_iff, decide_eq_true_iff, decide_eq_true_iff]

@[simp] theorem readTimesOut_advance (s t : State) : readTimesOut s.advance t = readTimesOut s t := by
  simp [readTimesOut]

section

variable {s t : State}

theorem State.awaitedBytes_of_awaiting (h : s.phase.awaiting = true) : s.awaitedBytes = 1 := if_pos h

theorem State.awaitedBytes_of_not_awaiting (h : s.phase.awaiting = false) : s.awaitedBytes = 0 :=
  if_neg (Bool.eq_false_iff.1 h)

theorem State.SameSerial.unreadBytes_eq (h : s.SameSerial t) : t.unreadBytes = s.unreadBytes := by
  rw [State.unreadBytes, State.unreadBytes, h.txFifo, h.rxFifo, h.wire]

namespace State.Balances

theorem of_unread (hu : t.unreadBytes = s.unreadBytes) (hp : t.phase.awaiting = s.phase.awaiting) : s.Balances t := by
  rw [State.Balances, State.awaitedBytes, State.awaitedBytes, hu, hp]

theorem of_same (hs : s.SameSerial t := by exact {}) (hp : t.phase = s.phase := by rfl) : s.Balances t :=
  of_unread hs.unreadBytes_eq (congrArg Phase.awaiting hp)

theorem staleBytes_eq (h : s.Balances t) : t.staleBytes = s.staleBytes := by
  rw [State.Balances] at h
  rw [State.staleBytes_eq, State.staleBytes_eq]
  omega

end State.Balances

/-! ### The wire agent, the lock and the requesters -/

/-- A token completed leaves the wire; a read token's byte arrives in its place (R165, R166). -/
theorem token_balances {tok : Token} (hin : s.wire.inflight = some tok) (h : exec tok.instr s = .next t) :
    s.Balances t := by
  obtain ⟨cmd, dat⟩ := tok
  cases cmd with
  | false =>
    obtain rfl | ⟨-, rfl⟩ := execWtok_next_cases h
    · exact .of_same
    · refine .of_unread ?_ rfl
      simp [State.unreadBytes, hin]
  | true =>
    obtain rfl | ⟨-, rfl⟩ := execRtok_next_cases h
    · exact .of_same
    · refine .of_unread ?_ rfl
      simp only [State.unreadBytes, receive, State.record_txFifo, hin, Option.toList_none, Option.toList_some,
        List.countP_nil, List.countP_singleton, if_true, List.length_append, List.length_singleton]
      omega

theorem wireTake_balances (h : wireTake s = .next t) : s.Balances t := by
  obtain rfl | ⟨tok, rest, htx, -, hin, rfl⟩ := wireTake_next_cases h
  · exact .of_same
  · refine .of_unread ?_ rfl
    simp [State.unreadBytes, State.taken, htx, hin, List.countP_cons]

/-- W_ABORT discards the tokens queued and in flight (R169). -/
theorem wireAbort_unreadBytes {mayAbort : Bool} (h : wireAbort mayAbort s = .next t) :
    t.unreadBytes ≤ s.unreadBytes ∧ t.phase = s.phase := by
  obtain rfl | ⟨-, rfl⟩ := wireAbort_next_cases h
  · exact ⟨Nat.le_refl _, rfl⟩
  · refine ⟨?_, rfl⟩
    simp [State.unreadBytes]

theorem runMove_balances {m : Move} (ho : m.own = true) (ha : m ≠ .wAbort) (h : runMove m s = .next t) :
    s.Balances t := by
  cases m with
  | access a => cases ho
  | wAbort => exact absurd rfl ha
  | engine | wComplete => exact hold_next.1 (whenRunning_next.1 h).2 ▸ .of_same
  | wTake => exact wireTake_balances h
  | wEnd =>
    obtain rfl | ⟨-, rfl⟩ := wireEnd_next_cases h
    · exact .of_same
    · exact .of_unread rfl rfl
  | grant r =>
    obtain rfl | ⟨q, -, -, hp, -, rfl⟩ := grant_next_cases h
    · exact .of_same
    · exact .of_unread rfl (hp ▸ rfl)
  | release =>
    obtain rfl | ⟨r, res, hp, -, -, rfl⟩ := release_next_cases h
    · exact .of_same
    · refine .of_unread rfl ?_
      obtain hp | hp | hp := Phase.terminal_iff.1 hp <;> rw [hp] <;> rfl
  | issue r rec => obtain rfl | ⟨q, -, -, rfl⟩ := issueRecord_next_cases h <;> exact .of_same
  | collect r => obtain rfl | ⟨res, -, rfl⟩ := collect_next_cases h <;> exact .of_same
  | helper r addr hp =>
    obtain rfl | ⟨-, ⟨q, -, rfl⟩ | ⟨res, -, rfl⟩⟩ := callHelper_next_cases h <;> exact .of_same

/-! ### INIT and SET_SPEED -/

/-- A register write other than a push or a flush (R107, R126) touches no byte. -/
theorem engineWrite_unreadBytes {r : Reg} {v : Word} {after : State → State} (h : engineWrite r v after s = .next t)
    (hafter : ∀ u : State, u.SameSerial (after u)) (hd : r ≠ .dataCmd) (hv : r = .enable → v.getLsbD 0 = true) :
    t.unreadBytes = s.unreadBytes := by
  obtain ⟨x, -, rfl⟩ | ⟨-, rfl⟩ := engineWrite_next.1 h
  · exact (State.SameSerial.raise s x).unreadBytes_eq
  · refine (hafter _).unreadBytes_eq.trans ?_
    by_cases he : r = .enable
    · subst he
      simp [State.unreadBytes, writeEffect_enable_eq, hv rfl]
    · obtain ⟨tx, rx, st, hist, heff⟩ := r.writeEffect_eq v s
      have hwire : (r.writeEffect v s).wire = s.wire := by rw [heff]
      simp only [State.unreadBytes, State.record_txFifo, State.record_wire, State.record_rxFifo, hwire,
        Reg.writeEffect_txFifo hd he, Reg.writeEffect_rxFifo he]

/-- Of the CFG steps only the disable flushes (R147). -/
theorem cfgStep_unreadBytes (hp : s.phase ≠ .cfgDisable) (h : cfgStep s = .next t) :
    t.unreadBytes = s.unreadBytes := by
  unfold cfgStep at h
  split at h
  case h_1 hdis => exact absurd hdis hp
  case h_8 => exact engineWrite_unreadBytes h (fun _ => {}) nofun (fun _ => by decide)
  case h_9 => rw [hold_next.1 h]
  all_goals exact engineWrite_unreadBytes h (fun _ => {}) nofun nofun

theorem execInit_unreadBytes {f : Nat} (hp : s.phase ≠ .cfgDisable) (h : execInit f s = .next t) :
    t.unreadBytes = s.unreadBytes := by
  obtain ⟨-, ⟨-, h⟩ | ⟨-, rfl⟩⟩ := whileServing_next.1 h
  · split at h
    · cases h
      exact (validateInit_sameSerial _ f s).unreadBytes_eq
    · exact cfgStep_unreadBytes hp h
  · rfl

theorem poll_unreadBytes {bound : Nat} {k : Wait} {success : Word → Bool} {next : Phase}
    (h : poll bound k success next s = .next t) : t.unreadBytes = s.unreadBytes := by
  obtain ⟨-, rfl⟩ | ⟨-, rfl⟩ := poll_next.1 h
  · exact (State.SameSerial.raise s _).unreadBytes_eq
  · exact (pollAfter_sameSerial bound k success next _ (statusRead s)).unreadBytes_eq

theorem execSetSpeed_unreadBytes {f : Nat} (hp : s.phase ≠ .cfgDisable) (h : execSetSpeed f s = .next t) :
    t.unreadBytes = s.unreadBytes := by
  obtain ⟨-, ⟨-, h⟩ | ⟨-, rfl⟩⟩ := whileServing_next.1 h
  · split at h
    · cases h
      exact (validateSetSpeed_sameSerial _ f s).unreadBytes_eq
    · exact poll_unreadBytes h
    · exact cfgStep_unreadBytes hp h
  · rfl

/-- CFG_DISABLE finds nothing queued or in flight (R184), and its write of ENABLE = 0 flushes what has arrived (R126). -/
theorem RunInvariant.unreadBytes_of_cfgDisable {q : Request} (hr : RunInvariant s) (hp : s.phase = .cfgDisable)
    (hq : s.req = some q) (h : exec q.instr s = .next t) : t.unreadBytes = 0 := by
  obtain ⟨hserves, -⟩ := hr.servesConfig hq (hp ▸ rfl)
  obtain ⟨htx, hin, hbusy⟩ := hr.quietBus (.inl hp)
  obtain ⟨hdisable, -⟩ := reconfigurationBrackets q.instr s hserves hr.noFault hr.mapped
  obtain rfl := Host.Outcome.next.inj (h.symm.trans (hdisable hp htx hin hbusy))
  simp [State.unreadBytes, hin]

/-! ### EXECUTE -/

theorem awaiting_validateExecute (maxLen : Option Nat) (a : Nat) (ten : Bool) (w : List Byte) (n : Nat) (s : State) :
    (validateExecute maxLen a ten w n s).phase.awaiting = false := by
  unfold validateExecute
  dsimp only
  split
  · rfl
  · split <;> rfl

theorem awaiting_afterPop (rlen : Nat) (v : Word) (s : State) : (afterPop rlen v s).phase.awaiting = false := by
  unfold afterPop
  dsimp only
  split <;> rfl

/-- A poll that goes on or waits keeps what is awaited; a Timeout of RD_POLL_RX gives it up (R190, R193). -/
theorem pollAfter_balances {next : Phase} (bound : Nat) (k : Wait) (success : Word → Bool) (v : Word)
    (hp : s.phase.afterPoll = some next) :
    s.Balances (pollAfter bound k success next v (statusRead s)) ∨
      readTimesOut s (pollAfter bound k success next v (statusRead s)) = true := by
  have hnext : next.awaiting = s.phase.awaiting ∧ (s.phase = .rdPollRx ∨ s.phase.awaiting = false) := by
    cases hph : s.phase with rw [hph] at hp
    | busWait | wrPoll | rdPollTx => cases hp; exact ⟨rfl, .inr rfl⟩
    | rdPollRx => cases hp; exact ⟨rfl, .inl rfl⟩
    | _ => cases hp
  obtain ⟨hawait, hrx⟩ := hnext
  by_cases hv : success v = true
  · rw [pollAfter_of_success hv]
    exact .inl (.of_unread rfl hawait)
  · by_cases hlt : (statusRead s).cnt < bound
    · rw [pollAfter_of_failure hv hlt]
      exact .inl (.of_unread rfl rfl)
    · rw [pollAfter_of_bound hv hlt]
      obtain hrx | hnone := hrx
      · exact .inr (readTimesOut_iff.2 ⟨hrx, rfl⟩)
      · exact .inl (.of_unread rfl hnone.symm)

theorem writeEffect_dataCmd_unreadBytes {v : Word} (hroom : s.txFifo.length < s.params.txDepth) :
    (Reg.writeEffect .dataCmd v s).unreadBytes = s.unreadBytes + if (tokenOf v).cmd then 1 else 0 := by
  have heff : Reg.writeEffect .dataCmd v s = { s with txFifo := s.txFifo ++ [tokenOf v] } := pushToken_of_room hroom _
  simp only [heff, State.unreadBytes, List.countP_append, List.countP_singleton]
  omega

theorem readEffect_dataCmd_unreadBytes (hrx : s.rxFifo ≠ []) :
    (Reg.readEffect .dataCmd s).unreadBytes + 1 = s.unreadBytes := by
  obtain ⟨b, rest, hrx⟩ := List.exists_cons_of_ne_nil hrx
  rw [readEffect_dataCmd_cons hrx]
  simp only [State.unreadBytes, hrx, List.length_cons]
  omega

/-- A step of EXECUTE pushes a read token as it begins to await its byte, and pops a byte as it ceases to (R189, R191);
but a Timeout of RD_POLL_RX leaves the byte unread. -/
theorem ExecuteStep.balances {a n : Nat} {ten : Bool} {w : List Byte} (hr : RunInvariant s)
    (h : ExecuteStep a ten w n s t) :
    s.Balances t ∨ readTimesOut s t = true ∧ t.unreadBytes = s.unreadBytes := by
  cases h with
  | held => exact .inl .of_same
  | faulted x => exact .inl (.of_same (.raise s x) (s.raise_phase x))
  | validated hp =>
    refine .inl (.of_unread (validateExecute_sameSerial _ a ten w n s).unreadBytes_eq ?_)
    rw [awaiting_validateExecute, hp]
    rfl
  | polled bound k success hp =>
    exact (pollAfter_balances bound k success _ hp).imp_right fun hout =>
      ⟨hout, (pollAfter_sameSerial bound k success _ _ (statusRead s)).unreadBytes_eq⟩
  | addressed hp =>
    refine .inl (.of_unread rfl ?_)
    rw [hp, afterAddress]
    dsimp only
    split <;> rfl
  | bytePushed hp hb =>
    refine .inl (.of_unread ((afterPush_sameSerial _ _ _).unreadBytes_eq.trans ?_) ?_)
    · refine (writeEffect_dataCmd_unreadBytes (hr.roomToPush (.inl hp))).trans ?_
      rw [tokenOf_writeTokenValue]
      rfl
    · rw [awaiting_afterPush, hp]
      rfl
  | tokenPushed hp =>
    left
    have hunread := writeEffect_dataCmd_unreadBytes (v := readTokenValue) (hr.roomToPush (.inr hp))
    rw [if_pos (by decide)] at hunread
    rw [State.Balances, State.awaitedBytes_of_not_awaiting (s := s) (hp ▸ rfl),
      State.awaitedBytes_of_awaiting (s := toPhase _ _) rfl]
    exact hunread
  | bytePopped v hp =>
    left
    have hunread := readEffect_dataCmd_unreadBytes (hr.byteToPop hp)
    rw [State.Balances, State.awaitedBytes_of_awaiting (s := s) (hp ▸ rfl),
      State.awaitedBytes_of_not_awaiting (awaiting_afterPop n v _), (afterPop_sameSerial n v _).unreadBytes_eq]
    exact hunread

/-! ### The step -/

/-- All that a step of the block's own agents whose move is `m` can do to the stale bytes. -/
inductive State.StaleStep (m : Move) (s t : State) : Prop
  | balanced (hd : ¬(m = .engine ∧ s.phase = .cfgDisable)) (h : s.Balances t)
  | timedOut (hout : readTimesOut s t = true) (h : t.unreadBytes = s.unreadBytes)
  | aborted (hm : m = .wAbort) (h : t.unreadBytes ≤ s.unreadBytes) (hp : t.phase = s.phase)
  | flushed (hm : m = .engine) (hp : s.phase = .cfgDisable) (h : t.unreadBytes = 0)

theorem State.not_executes {q : Request} (hq : s.req = some q) (hne : ∀ a ten w n, q ≠ .execute a ten w n) :
    ¬s.Executes := fun ⟨a, ten, w, n, hq'⟩ => hne a ten w n (Option.some.inj (hq.symm.trans hq'))

/-- A request other than EXECUTE awaits no byte. -/
theorem State.Balances.of_not_executes (hr : RunInvariant s) (hr' : RunInvariant t) (hn : ¬s.Executes)
    (hq : t.req = s.req) (hu : t.unreadBytes = s.unreadBytes) : s.Balances t :=
  .of_unread hu ((hr'.awaiting_eq_false fun h => hn (h.of_req hq.symm)).trans (hr.awaiting_eq_false hn).symm)

theorem request_staleStep {q : Request} (hr : RunInvariant s) (hr' : RunInvariant t) (hq : s.req = some q)
    (h : exec q.instr s = .next t) : s.StaleStep .engine t := by
  by_cases hp : s.phase = .cfgDisable
  · exact .flushed rfl hp (hr.unreadBytes_of_cfgDisable hp hq h)
  · have hd : ¬(Move.engine = .engine ∧ s.phase = .cfgDisable) := fun h => hp h.2
    cases q with
    | init f =>
      exact .balanced hd
        (.of_not_executes hr hr' (State.not_executes hq nofun) (execInit_req h) (execInit_unreadBytes hp h))
    | setSpeed f =>
      exact .balanced hd
        (.of_not_executes hr hr' (State.not_executes hq nofun) (execSetSpeed_req h) (execSetSpeed_unreadBytes hp h))
    | execute a ten w n =>
      obtain hbal | ⟨hout, hu⟩ := (execExecute_next_cases h).balances hr
      · exact .balanced hd hbal
      · exact .timedOut hout hu

theorem runMove_staleStep {m : Move} (ho : m.own = true) (he : m ≠ .engine) (h : runMove m s = .next t) :
    s.StaleStep m t := by
  by_cases ha : m = .wAbort
  · subst ha
    obtain ⟨hle, hp⟩ := wireAbort_unreadBytes h
    exact .aborted rfl hle hp
  · exact .balanced (fun h => he h.1) (runMove_balances ho ha h)

/-- A step does what `State.StaleStep` says to the state in which its move has been chosen. -/
theorem RunInvariant.staleStep (hr : RunInvariant s) (ho : s.nextMove.own = true) (h : step s = .next t) :
    s.advance.StaleStep s.nextMove t := by
  cases hm : s.nextMove with
  | engine =>
    obtain ⟨hnone, rfl⟩ | ⟨q, hq, hexec⟩ := step_engine hm h
    · refine .balanced (fun ⟨_, hp⟩ => ?_) .of_same
      obtain ⟨hconf, -⟩ := hr.serves
      rw [s.advance_phase] at hp
      obtain ⟨f, hq | hq⟩ := hconf (hp ▸ rfl) <;> cases hnone.symm.trans hq
    · exact request_staleStep hr.advance (hr.of_step ho h) (s.advance_req.trans hq) hexec
  | wComplete =>
    obtain ⟨-, rfl⟩ | ⟨tok, hin, hexec⟩ := step_wComplete hm h
    · exact .balanced nofun .of_same
    · exact .balanced nofun (token_balances (s.advance_wire ▸ hin) hexec)
  | access a => rw [hm] at ho; cases ho
  | _ => exact runMove_staleStep (hm ▸ ho) nofun (hm ▸ step_other (by simp only [fetch, hm]) h)

namespace State.StaleStep

variable {m : Move}

/-- Only a read timeout adds a stale byte, and one. -/
theorem staleBytes_le (h : s.StaleStep m t) :
    t.staleBytes ≤ s.staleBytes + if readTimesOut s t then 1 else 0 := by
  cases h with
  | balanced hd h => exact h.staleBytes_eq ▸ Nat.le_add_right _ _
  | timedOut hout h =>
    rw [if_pos hout, State.staleBytes, State.staleBytes, h]
    split_ifs <;> omega
  | aborted hm h hp =>
    rw [State.staleBytes, State.staleBytes, hp]
    omega
  | flushed hm hp h =>
    rw [State.staleBytes_eq t, h, Nat.zero_sub]
    exact Nat.zero_le _

/-- Only a W_ABORT and a CFG_DISABLE remove stale bytes. -/
theorem le_staleBytes (h : s.StaleStep m t) (ha : m ≠ .wAbort) (hd : ¬(m = .engine ∧ s.phase = .cfgDisable)) :
    s.staleBytes ≤ t.staleBytes := by
  cases h with
  | balanced hd h => exact h.staleBytes_eq.ge
  | timedOut hout h =>
    obtain ⟨-, hp⟩ := readTimesOut_iff.1 hout
    rw [State.staleBytes_eq t, State.awaitedBytes_of_not_awaiting (hp ▸ rfl), h]
    exact Nat.sub_le _ _
  | aborted hm h hp => exact absurd hm ha
  | flushed hm hp h => exact absurd ⟨hm, hp⟩ hd

theorem staleBytes_eq_zero (h : s.StaleStep m t) (hm : m = .engine) (hp : s.phase = .cfgDisable) :
    t.staleBytes = 0 := by
  cases h with
  | balanced hd h => exact absurd ⟨hm, hp⟩ hd
  | timedOut hout h =>
    obtain ⟨hrx, -⟩ := readTimesOut_iff.1 hout
    cases hp.symm.trans hrx
  | aborted ha h hp' => cases hm.symm.trans ha
  | flushed hm hp h => rw [State.staleBytes_eq, h, Nat.zero_sub]

end State.StaleStep

/-! ### Runs -/

theorem readTimeouts_cons {m : Move} {u : State} (h : step (s.offer m) = .next u) (ms : List Move) :
    readTimeouts (m :: ms) s = (if readTimesOut s u then 1 else 0) + readTimeouts ms u := by
  rw [readTimeouts, h]

/-- By induction on the moves: each adds at most the byte of its own read timeout. -/
theorem RunInvariant.staleBytes_run {ms : List Move} (hr : RunInvariant s) (hown : ∀ m ∈ ms, m.own = true)
    (h : runMoves ms s = .next t) : t.staleBytes ≤ s.staleBytes + readTimeouts ms s := by
  induction ms generalizing s with
  | nil => exact (Host.Outcome.next.inj h ▸ Nat.le_refl _ : t.staleBytes ≤ s.staleBytes)
  | cons m ms ih =>
    obtain ⟨u, hu, hrest⟩ := runMoves_cons.1 h
    have ho := hown m List.mem_cons_self
    have hrun := ih ((hr.offer m).of_step ho hu) (fun m' hm' => hown m' (List.mem_cons_of_mem m hm')) hrest
    have hstep : u.staleBytes ≤ s.staleBytes + if readTimesOut s u then 1 else 0 :=
      ((hr.offer m).staleStep ho hu).staleBytes_le
    rw [readTimeouts_cons hu]
    omega

end

/-- Settles O52: a step does to the stale bytes what `State.StaleStep` says (`RunInvariant.staleStep`), and a run adds up
its steps (`RunInvariant.staleBytes_run`). -/
theorem staleBytesComeFromReadTimeouts : Obligations.StaleBytesComeFromReadTimeouts := by
  refine ⟨fun s t hr ho h => ?_, fun ms s t hr hown h => ?_⟩
  · have hstep := hr.staleStep ho h
    rw [← s.staleBytes_advance, ← readTimesOut_advance, ← s.advance_phase]
    exact ⟨hstep.staleBytes_le, hstep.le_staleBytes, hstep.staleBytes_eq_zero⟩
  · have hrun := hr.staleBytes_run hown h
    refine ⟨hrun, fun hidle hone => ?_⟩
    rw [hidle.staleBytes_eq_zero, Nat.zero_add] at hrun
    exact hrun.trans hone

end Sys2Proof.Machine
end
